-- ==== Sys2Proof/Word.lean ====
section
/-! DEFINITION. The word types of the block, in the widths 00_scope.md section 4 gives:
8-bit data, 16-bit main-memory addresses, 64-bit time base and stamps, 32-bit command words. -/

namespace Sys2Proof

/-- One byte of data (`u8`). -/
abbrev Byte := BitVec 8

/-- A main-memory address (`u16`, 20_memory.md R40). -/
abbrev Addr := BitVec 16

/-- The time base and every stamp (`u64`, 10_state.md R10, R26, R32). -/
abbrev Stamp := BitVec 64

/-- A command word (`u32`, 30_encoding.md R60). -/
abbrev CmdWord := BitVec 32

end Sys2Proof
end

