-- ==== Sys2Proof/Config.lean ====
section
/-! DEFINITION. What is fixed for the block (00_scope.md section 4), the record of one bus access
(20_memory.md R44), and the one free value: what the host's main memory answers to a read (R42).
The strap `REPEAT_READ_REV` is not here: it is OPEN (92_eei_decisions.md D14), so it is a field of
the state that no operation writes. -/

namespace Sys2Proof

/-- The three sites at which the block reads main memory (20_memory.md R44). -/
inductive ReadSite where
  /-- the bulk-copy read, 40_bulk_copy_dma.md R83 -/
  | bulkCopy
  /-- the fetch of the fourth stall cycle, 41_sample_fetch_dma.md R106 -/
  | sampleFetch
  /-- the repeat read of stall cycles 2 and 3, 41_sample_fetch_dma.md R105 -/
  | repeatRead
  deriving DecidableEq, Repr

/-- One bus access: `(tick, R, address, value)` or `(tick, W, dest, value)`
(92_eei_decisions.md D33, 95_test_vectors.md section 0), a read with its site beside it.
The only writes are the bulk copy's, to the secondary memory. -/
inductive BusAccess where
  | read (site : ReadSite) (tick : Stamp) (addr : Addr) (value : Byte)
  | write (tick : Stamp) (dest : Byte) (value : Byte)
  deriving DecidableEq, Repr

namespace Config

/-- Half-cycles per bulk copy: one read and one write for each of the `TRANSFER_LEN` 256 bytes
(40_bulk_copy_dma.md R84). -/
def transferHalfCycles : BitVec 16 := 512#16

/-- Cycles per sample fetch, `STALL_LEN`. -/
def stallLen : Fin 5 := 4

/-- The byte a main-memory read returns where the state lists none: "an oracle answer: a free input
that may depend on the address and on the whole history of earlier accesses" (20_memory.md R42).
It has no body, so nothing can be proved about its value (log entry 3). -/
opaque mainPortAnswer (history : List BusAccess) (addr : Addr) : Byte

end Config

end Sys2Proof
end

