-- ==== Sys2Proof/Syntax.lean ====
section
/-! DEFINITION. The nine operations of the block (30_encoding.md R65, R67), which take the place of
instructions. -/

namespace Sys2Proof

/-- An operation, with its operands as the unsigned fields R67 gives them. -/
inductive Instr where
  /-- `TICK`: one processor clock cycle -/
  | tick
  /-- `OAM_TRIG page, odd`: write to the bulk-copy trigger register -/
  | oamTrig (page : Byte) (odd : Bool)
  /-- `DMC_TRIG addr`: sample-fetch trigger -/
  | dmcTrig (addr : Addr)
  /-- `CPU_RD addr`: report of a processor read address -/
  | cpuRd (addr : Addr)
  /-- `ST_READ`: read of the status register -/
  | stRead
  /-- `EN_WRITE en`: write affecting the interrupt-enable bit -/
  | enWrite (en : Bool)
  /-- `WIN_START`: the vertical-blank window starts -/
  | winStart
  /-- `WIN_END`: the vertical-blank window ends -/
  | winEnd
  /-- `RESET`: power-on or reset -/
  | reset
  deriving DecidableEq, Repr

end Sys2Proof
end

