-- ==== Sys2Proof/WellFormed.lean ====
section
/-! DEFINITION. Operand ranges. A decoded operation cannot leave them: its operand types are exactly
the ranges of 30_encoding.md R69. A line of a trace, whose operands are written as numbers, can, and
is then an assembly error (R69). -/

namespace Sys2Proof

/-- One line of a trace as written (30_encoding.md R69, R70): the nine operations with numbers for
operands, and the three pseudo-operations. -/
inductive TraceLine where
  | tick
  | oamTrig (page odd : Nat)
  | dmcTrig (addr : Nat)
  | cpuRd (addr : Nat)
  | stRead
  | enWrite (en : Nat)
  | winStart
  | winEnd
  | reset
  /-- `TICKS n` -/
  | ticks (n : Nat)
  /-- `OAM_START page` -/
  | oamStart (page : Nat)
  /-- `RUN_UNTIL_IDLE` -/
  | runUntilIdle
  deriving DecidableEq, Repr

/-- `<page: 0..255>` -/
def pageInRange (n : Nat) : Bool := n ≤ 255

/-- `<odd: 0|1>` and `<en: 0|1>` -/
def bitInRange (n : Nat) : Bool := n ≤ 1

/-- `<addr: 0..0xFFFF>` -/
def addrInRange (n : Nat) : Bool := n ≤ 0xFFFF

/-- The operands of a written line are in the ranges of R69 (and R70 for the pseudo-operations). -/
def TraceLine.wellFormed : TraceLine → Bool
  | .tick => true
  | .oamTrig page odd => pageInRange page && bitInRange odd
  | .dmcTrig addr => addrInRange addr
  | .cpuRd addr => addrInRange addr
  | .stRead => true
  | .enWrite en => bitInRange en
  | .winStart => true
  | .winEnd => true
  | .reset => true
  | .ticks _ => true
  | .oamStart page => pageInRange page
  | .runUntilIdle => true

/-- The operands of a decoded operation are in the ranges of R69. -/
def Instr.wellFormed : Instr → Bool
  | .tick => true
  | .oamTrig page odd => pageInRange page.toNat && bitInRange odd.toNat
  | .dmcTrig addr => addrInRange addr.toNat
  | .cpuRd addr => addrInRange addr.toNat
  | .stRead => true
  | .enWrite en => bitInRange en.toNat
  | .winStart => true
  | .winEnd => true
  | .reset => true

end Sys2Proof
end

