-- ==== Sys2Proof/Decode.lean ====
section
/-! DEFINITION. Decoding of command words by the opcode map of 30_encoding.md R65, total on every word
and on every byte sequence, rejecting by name (R66); and the encoder (R67). -/

namespace Sys2Proof

/-- Why a word (or a byte sequence) spells no operation. -/
inductive Reject where
  /-- `op` in 0x8 to 0xE (93_implementation_defined.md V1) -/
  | reservedOp (op : BitVec 4)
  /-- a defined `op` with a must-be-zero bit set (93_implementation_defined.md V2) -/
  | mustBeZero (op : BitVec 4)
  /-- fewer than the four bytes of a command word on a byte carrier (30_encoding.md R60, R72) -/
  | shortWord
  deriving DecidableEq, Repr

/-- A row of the opcode map. -/
structure OpcodeRow where
  mnemonic : String
  pattern : CmdWord
  mask : CmdWord
  deriving DecidableEq, Repr

def rowTick : OpcodeRow := { mnemonic := "TICK", pattern := 0x00000000#32, mask := 0xFFFFFFFF#32 }
def rowOamTrig : OpcodeRow := { mnemonic := "OAM_TRIG", pattern := 0x10000000#32, mask := 0xFFFEFF00#32 }
def rowDmcTrig : OpcodeRow := { mnemonic := "DMC_TRIG", pattern := 0x20000000#32, mask := 0xFFFF0000#32 }
def rowCpuRd : OpcodeRow := { mnemonic := "CPU_RD", pattern := 0x30000000#32, mask := 0xFFFF0000#32 }
def rowStRead : OpcodeRow := { mnemonic := "ST_READ", pattern := 0x40000000#32, mask := 0xFFFFFFFF#32 }
def rowEnWrite : OpcodeRow := { mnemonic := "EN_WRITE", pattern := 0x50000000#32, mask := 0xFFFFFFFE#32 }
def rowWinStart : OpcodeRow := { mnemonic := "WIN_START", pattern := 0x60000000#32, mask := 0xFFFFFFFF#32 }
def rowWinEnd : OpcodeRow := { mnemonic := "WIN_END", pattern := 0x70000000#32, mask := 0xFFFFFFFF#32 }
def rowReset : OpcodeRow := { mnemonic := "RESET", pattern := 0xF0000000#32, mask := 0xFFFFFFFF#32 }

/-- The opcode map of R65. -/
def opcodeMap : List OpcodeRow :=
  [rowTick, rowOamTrig, rowDmcTrig, rowCpuRd, rowStRead, rowEnWrite, rowWinStart, rowWinEnd, rowReset]

/-- "A word `w` encodes the operation of a row if and only if `(w and mask) == match`" (R65). -/
def OpcodeRow.hits (r : OpcodeRow) (w : CmdWord) : Bool := w &&& r.mask == r.pattern

/-- The row of an operation. -/
def Instr.row : Instr → OpcodeRow
  | .tick => rowTick
  | .oamTrig _ _ => rowOamTrig
  | .dmcTrig _ => rowDmcTrig
  | .cpuRd _ => rowCpuRd
  | .stRead => rowStRead
  | .enWrite _ => rowEnWrite
  | .winStart => rowWinStart
  | .winEnd => rowWinEnd
  | .reset => rowReset

/-- `op = cmd[31:28]` (R60). -/
def opField (w : CmdWord) : BitVec 4 := w.extractLsb' 28 4

/-- `odd = cmd[16]` (R63). -/
def oddField (w : CmdWord) : Bool := w.getLsbD 16

/-- `page = cmd[7:0]` (R63). -/
def pageField (w : CmdWord) : Byte := w.extractLsb' 0 8

/-- `addr = cmd[15:0]` (R62). -/
def addrField (w : CmdWord) : Addr := w.extractLsb' 0 16

/-- `en = cmd[0]` (R64). -/
def enField (w : CmdWord) : Bool := w.getLsbD 0

/-- `op in {0x8 .. 0xE}` (R66). -/
def isReservedOp (op : BitVec 4) : Bool := 0x8#4 ≤ op && op ≤ 0xE#4

/-- The name of the refusal of a word no row hits (R66). -/
def rejectOf (w : CmdWord) : Reject :=
  if isReservedOp (opField w) then .reservedOp (opField w) else .mustBeZero (opField w)

/-- The decoder: the operation of the row the word hits, else a refusal by name (R65, R66). -/
def decodeWord (w : CmdWord) : Except Reject Instr :=
  if rowTick.hits w then .ok .tick
  else if rowOamTrig.hits w then .ok (.oamTrig (pageField w) (oddField w))
  else if rowDmcTrig.hits w then .ok (.dmcTrig (addrField w))
  else if rowCpuRd.hits w then .ok (.cpuRd (addrField w))
  else if rowStRead.hits w then .ok .stRead
  else if rowEnWrite.hits w then .ok (.enWrite (enField w))
  else if rowWinStart.hits w then .ok .winStart
  else if rowWinEnd.hits w then .ok .winEnd
  else if rowReset.hits w then .ok .reset
  else .error (rejectOf w)

/-- A command word from its four bytes, least significant first (R72). -/
def wordOfBytes (b0 b1 b2 b3 : Byte) : CmdWord := b3 ++ b2 ++ b1 ++ b0

/-- The four bytes of a command word, least significant first (R72). -/
def bytesOfWord (w : CmdWord) : List Byte :=
  [w.extractLsb' 0 8, w.extractLsb' 8 8, w.extractLsb' 16 8, w.extractLsb' 24 8]

/-- The decoder on a byte carrier (R72): the first word's operation and the bytes after it. -/
def decodeBytes : List Byte → Except Reject (Instr × List Byte)
  | b0 :: b1 :: b2 :: b3 :: rest =>
    match decodeWord (wordOfBytes b0 b1 b2 b3) with
    | .ok i => .ok (i, rest)
    | .error r => .error r
  | _ => .error .shortWord

/-- `(opcode << 28) or (odd << 16) or arg` (R67). -/
def packWord (op : BitVec 4) (odd : Bool) (arg : BitVec 16) : CmdWord :=
  (op.setWidth 32 <<< 28) ||| ((BitVec.ofBool odd).setWidth 32 <<< 16) ||| arg.setWidth 32

/-- The encoder, "with the unused fields zero" (R67). -/
def encode : Instr → CmdWord
  | .tick => packWord 0x0#4 false 0
  | .oamTrig page odd => packWord 0x1#4 odd (page.setWidth 16)
  | .dmcTrig addr => packWord 0x2#4 false addr
  | .cpuRd addr => packWord 0x3#4 false addr
  | .stRead => packWord 0x4#4 false 0
  | .enWrite en => packWord 0x5#4 false ((BitVec.ofBool en).setWidth 16)
  | .winStart => packWord 0x6#4 false 0
  | .winEnd => packWord 0x7#4 false 0
  | .reset => packWord 0xF#4 false 0

/-- The command word whose `nbits` low bits are those of `w`, the rest zero. -/
def tableWord (nbits w : Nat) : CmdWord := BitVec.ofNat 32 (w % 2 ^ nbits)

/-- What the decoder reads from an opcode-table word, laid out in its bytes as R72 says. -/
def decodeTableWord (nbits w : Nat) : Option Instr :=
  match decodeBytes (bytesOfWord (tableWord nbits w)) with
  | .ok (i, _) => some i
  | .error _ => none

end Sys2Proof
end

