-- ==== Sys2Proof/Machine/State.lean ====
section
/-! DEFINITION. The state: the 25 fields of 10_state.md, in its four records and the time base; what
stands on the block's two bus ports and its strap (20_memory.md, 00_scope.md section 4); and its
command and response port (30_encoding.md R60, R68). The state after reset, and the reasons a step can
stop. -/

namespace Sys2Proof.Machine

/-- The phase of the bulk-copy engine (10_state.md R20). Code 7 has no value here (R39). -/
inductive Phase where
  | idle
  | aligning
  | reading
  | writing
  | pausedDuringRead
  | pausedDuringWrite
  | completing
  deriving DecidableEq, Repr

/-- Bulk-Copy DMA state (10_state.md R14 to R20). -/
structure Oam where
  /-- "transfer in progress" (R14) -/
  active : Bool
  /-- high byte of the source window (R15) -/
  sourcePage : Byte
  /-- next byte index to transfer (R16) -/
  currentOffset : Byte
  /-- half-cycles performed in this transfer (R17) -/
  currentCycle : BitVec 16
  /-- the startup alignment wait is still to come (R18) -/
  needsAlignment : Bool
  /-- the byte between its read and its write (R19) -/
  tempValue : Byte
  phase : Phase
  deriving DecidableEq, Repr

/-- Sample-Fetch DMA state (10_state.md R21 to R25). -/
structure Dmc where
  /-- the engine is stalling the processor (R21) -/
  rdyLow : Bool
  /-- 0 to 4 (R22); larger counts are not representable, as R39 asks -/
  stallCyclesRemaining : Fin 5
  /-- target of the fetch (R23) -/
  sampleAddress : Addr
  /-- result of the fetch (R24) -/
  sampleByte : Byte
  /-- the processor's last reported read address (R25) -/
  lastReadAddress : Addr
  deriving DecidableEq, Repr

/-- Conflict Ledger (10_state.md R26, R27). -/
structure ConflictLedger where
  dmcActiveCycle : Stamp
  dmcInactiveCycle : Stamp
  oamPauseCycle : Stamp
  oamResumeCycle : Stamp
  /-- one alignment cycle is owed to the bulk-copy engine (R27) -/
  alignOwed : Bool
  deriving DecidableEq, Repr

/-- Interrupt Ledger (10_state.md R28 to R32). -/
structure InterruptLedger where
  /-- the software-readable status bit (R28) -/
  flag : Bool
  /-- the hardware timing window (R29) -/
  spanActive : Bool
  /-- the enable bit (R30) -/
  enable : Bool
  /-- the interrupt line (R31) -/
  line : Bool
  lastSetCycle : Stamp
  lastClearCycle : Stamp
  lastReadCycle : Stamp
  deriving DecidableEq, Repr

/-- A memory: what each listed address holds, addresses strictly rising (`Memory.wf`). What an unlisted
address holds is not known to the model. -/
abbrev Memory := List Host.Cell

/-- What the block's straps and bus ports are connected to. None of it is state of the block, and
`RESET` changes none of it (70_reset_and_hazards.md R202). -/
structure Env where
  /-- the strap `REPEAT_READ_REV` (92_eei_decisions.md D14), written by no operation -/
  repeatReadRev : Bool
  /-- what the host's main memory is known to hold (20_memory.md R40) -/
  main : Memory
  /-- what the secondary memory is known to hold (20_memory.md R41) -/
  sec : Memory
  /-- the secondary memory's own destination pointer (20_memory.md R41) -/
  destPtr : Byte
  /-- the bus accesses issued so far, oldest first (20_memory.md R44, R48) -/
  busLog : List BusAccess
  deriving DecidableEq, Repr

/-- The command port and the response port. -/
structure Port where
  /-- the command words the host has still to present, the next one first (00_scope.md R1) -/
  pending : List CmdWord
  /-- the response of the operation just performed, if it has one (30_encoding.md R68) -/
  response : Option Bool
  deriving DecidableEq, Repr

structure State where
  /-- ticks since reset, modulo 2^64 (10_state.md R10) -/
  now : Stamp
  oam : Oam
  dmc : Dmc
  cl : ConflictLedger
  il : InterruptLedger
  env : Env
  port : Port
  deriving DecidableEq, Repr

/-- "every field at its reset value" for the bulk-copy record (10_state.md R38, 40_bulk_copy_dma.md R86). -/
def Oam.reset : Oam :=
  { active := false, sourcePage := 0#8, currentOffset := 0#8, currentCycle := 0#16, needsAlignment := false,
    tempValue := 0#8, phase := .idle }

/-- 10_state.md R38 for the sample-fetch record. -/
def Dmc.reset : Dmc :=
  { rdyLow := false, stallCyclesRemaining := 0, sampleAddress := 0#16, sampleByte := 0#8,
    lastReadAddress := 0#16 }

/-- 10_state.md R38 for the Conflict Ledger. -/
def ConflictLedger.reset : ConflictLedger :=
  { dmcActiveCycle := 0#64, dmcInactiveCycle := 0#64, oamPauseCycle := 0#64, oamResumeCycle := 0#64,
    alignOwed := false }

/-- 10_state.md R38 for the Interrupt Ledger. -/
def InterruptLedger.reset : InterruptLedger :=
  { flag := false, spanActive := false, enable := false, line := false, lastSetCycle := 0#64,
    lastClearCycle := 0#64, lastReadCycle := 0#64 }

/-- The surroundings in the initial state. The spec gives no values (91_not_in_source.md N11):
DESIGN CHOICE, log entries 2 to 6. -/
def Env.initial : Env :=
  { repeatReadRev := false, main := [], sec := [], destPtr := 0#8, busLog := [] }

/-- An idle command port: DESIGN CHOICE, log entries 7 and 8. -/
def Port.initial : Port := { pending := [], response := none }

/-- The machine right after reset: "that all-zero record" (70_reset_and_hazards.md R200, 10_state.md R38). -/
def State.reset : State :=
  { now := 0#64, oam := Oam.reset, dmc := Dmc.reset, cl := ConflictLedger.reset, il := InterruptLedger.reset,
    env := Env.initial, port := Port.initial }

/-- Reasons to stop with a fault. There are none: "This block never uses `fault` or `stuck`"
(93_implementation_defined.md), "The block raises no exception" (60_exceptions.md R180). -/
inductive Fault where
  deriving DecidableEq, Repr

/-- Reasons to refuse. -/
inductive Refusal where
  /-- Raised by an arm of `exec` whose operation has no meaning yet. No arm raises it. Safe. -/
  | notModelled (mnemonic : String)
  /-- Raised by `step` when the word on the command port spells no operation (30_encoding.md R66): the
  decoder refuses it and the block's state does not change. Safe: the run stops where the hardware
  would wait for the next word. -/
  | spellsNoOperation (reason : Reject)
  deriving DecidableEq, Repr

end Sys2Proof.Machine
end

