-- ==== Sys2Proof/Machine/Ops.lean ====
section
/-! DEFINITION. Named operations over memory, the two bus ports and the records of the state, and the
block's one nested entry with its return: the pause and the resume of the bulk-copy engine
(60_exceptions.md R186, R187). The block raises no exception (60_exceptions.md R180), so there is no
other entry to take. -/

namespace Sys2Proof.Machine

/-! Memory. -/

/-- What a listed address holds. -/
def Memory.read : Memory → Nat → Option Byte
  | [], _ => none
  | (x, b) :: m, a => if x = a then some b else Memory.read m a

/-- The memory in which `a` holds `b`; the canonical form is kept (`Memory.write_wf`). -/
def Memory.write : Memory → Nat → Byte → Memory
  | [], a, b => [(a, b)]
  | (x, c) :: m, a, b =>
    if a < x then (a, b) :: (x, c) :: m
    else if a = x then (a, b) :: m
    else (x, c) :: Memory.write m a b

/-- The canonical form: addresses strictly rising. An unlisted address has no value known to the model,
so no entry can equal it. -/
def Memory.wf : Memory → Bool
  | [] => true
  | (x, _) :: m => m.all (fun c => x < c.1) && Memory.wf m

/-- Every listed address lies in a space of `size` bytes. -/
def Memory.within (size : Nat) (m : Memory) : Bool := m.all (fun c => c.1 < size)

/-! One setter for each part of the state. -/

def State.setNow (s : State) (v : Stamp) : State := { s with now := v }
def State.setOam (s : State) (v : Oam) : State := { s with oam := v }
def State.setDmc (s : State) (v : Dmc) : State := { s with dmc := v }
def State.setCl (s : State) (v : ConflictLedger) : State := { s with cl := v }
def State.setIl (s : State) (v : InterruptLedger) : State := { s with il := v }
def State.setEnv (s : State) (v : Env) : State := { s with env := v }
def State.setPort (s : State) (v : Port) : State := { s with port := v }

/-! The bus primitives (20_memory.md R42, R43). -/

/-- The byte a read of main memory returns now: what the address is known to hold, else the host's
oracle answer (20_memory.md R42; log entry 3). -/
def mainByte (e : Env) (addr : Addr) : Byte :=
  match Memory.read e.main addr.toNat with
  | some b => b
  | none => Config.mainPortAnswer e.busLog addr

/-- `MemRead(addr, 1)`: the state after the read has been issued; the byte it returned is
`mainByte s.env addr`, taken before it (20_memory.md R42). -/
def issueRead (site : ReadSite) (addr : Addr) (s : State) : State :=
  s.setEnv { s.env with busLog := s.env.busLog ++ [.read site s.now addr (mainByte s.env addr)] }

/-- `SecWrite(v)`: store at the secondary memory's pointer, then move the pointer, modulo 256
(20_memory.md R41, R43). -/
def secWrite (v : Byte) (s : State) : State :=
  s.setEnv { s.env with
    sec := Memory.write s.env.sec s.env.destPtr.toNat v
    destPtr := s.env.destPtr + 1#8
    busLog := s.env.busLog ++ [.write s.now s.env.destPtr v] }

/-- The access belongs to the bulk-copy engine (20_memory.md R44). -/
def isBulkAccess : BusAccess → Bool
  | .read .bulkCopy _ _ _ => true
  | .read .sampleFetch _ _ _ => false
  | .read .repeatRead _ _ _ => false
  | .write _ _ _ => true

/-! The host's own means on the far side of the ports (70_reset_and_hazards.md R203, R215). -/

/-- The host places a byte in main memory. -/
def hostStore (addr : Addr) (b : Byte) (s : State) : State :=
  s.setEnv { s.env with main := Memory.write s.env.main addr.toNat b }

/-- Software sets the secondary memory's pointer, by a way outside the block (R203 point 3). -/
def hostSetDestPtr (p : Byte) (s : State) : State := s.setEnv { s.env with destPtr := p }

/-! Phases. -/

/-- The binary codes of 10_state.md R20. -/
def Phase.code : Phase → BitVec 3
  | .idle => 0
  | .aligning => 1
  | .reading => 2
  | .writing => 3
  | .pausedDuringRead => 4
  | .pausedDuringWrite => 5
  | .completing => 6

/-- The phase a code stands for; "every rule that dispatches on `phase` treats 7 as `idle`" (10_state.md R39). -/
def Phase.ofCode (c : BitVec 3) : Phase :=
  if c = 1 then .aligning
  else if c = 2 then .reading
  else if c = 3 then .writing
  else if c = 4 then .pausedDuringRead
  else if c = 5 then .pausedDuringWrite
  else if c = 6 then .completing
  else .idle

/-- "paused" in the phase sense (10_state.md R36 (c)). -/
def Phase.isPaused : Phase → Bool
  | .idle => false
  | .aligning => false
  | .reading => false
  | .writing => false
  | .pausedDuringRead => true
  | .pausedDuringWrite => true
  | .completing => false

/-! Ownership (42_arbitration_tick.md R121). -/

inductive Owner where
  | dmc
  | oam
  | none
  deriving DecidableEq, Repr

/-- `Owner()`: sample-fetch first. -/
def owner (s : State) : Owner :=
  if s.dmc.rdyLow then .dmc else if s.oam.active then .oam else .none

/-! Preemption entry and return. -/

/-- Enter the paused phase that mirrors a half-cycle, stamping the time (R123 case (1)). -/
def pauseInto (p : Phase) (s : State) : State :=
  (s.setOam { s.oam with phase := p }).setCl { s.cl with oamPauseCycle := s.now }

/-- `PauseOam` (42_arbitration_tick.md R123). With no transfer in progress there is nothing to hold. -/
def pauseOam (s : State) : State :=
  match s.oam.phase with
  | .reading => pauseInto .pausedDuringRead s
  | .writing => pauseInto .pausedDuringWrite s
  | .pausedDuringRead => s
  | .pausedDuringWrite => s
  | .aligning => s
  | .completing => s
  | .idle => s

/-- Leave a paused phase for its half-cycle: stamp the time and owe one alignment cycle (R124). -/
def resumeInto (p : Phase) (s : State) : State :=
  (s.setOam { s.oam with phase := p }).setCl { s.cl with oamResumeCycle := s.now, alignOwed := true }

/-- `ResumeOam` (42_arbitration_tick.md R124). -/
def resumeOam (s : State) : State :=
  match s.oam.phase with
  | .pausedDuringRead => resumeInto .reading s
  | .pausedDuringWrite => resumeInto .writing s
  | .idle => s
  | .aligning => s
  | .reading => s
  | .writing => s
  | .completing => s

end Sys2Proof.Machine
end

