-- ==== Sys2Proof/Machine/Operands.lean ====
section
/-! DEFINITION. Operand and address forms: the bulk copy's source address, the number of a stall cycle,
and the default wiring of the parity operand. Every other operand is an unsigned field used as is
(30_encoding.md R67). -/

namespace Sys2Proof.Machine

/-- `source_page ++ current_offset`: page the high byte, offset the low byte (20_memory.md R44, R46). -/
def sourceAddr (page offset : Byte) : Addr := page ++ offset

/-- The address of the bulk-copy read (40_bulk_copy_dma.md R83). -/
def oamSourceAddr (s : State) : Addr := sourceAddr s.oam.sourcePage s.oam.currentOffset

/-- `stall_cycles_remaining - 1`, applied only to 2, 3 and 4 (41_sample_fetch_dma.md R104). -/
def stallPred (r : Fin 5) : Fin 5 := ⟨r.val - 1, by omega⟩

/-- Stall cycle number `k = 4 - stall_cycles_remaining`, after the decrement (41_sample_fetch_dma.md R103). -/
def stallCycleNumber (remaining : Fin 5) : Nat := Config.stallLen.val - remaining.val

/-- `k in {2, 3}` (41_sample_fetch_dma.md R102, R105). -/
def isRepeatCycle (k : Nat) : Bool := k == 2 || k == 3

/-- The default wiring of `odd`: bit 0 of the time base (30_encoding.md R70, 92_eei_decisions.md D5). -/
def parityOf (s : State) : Bool := s.now.getLsbD 0

end Sys2Proof.Machine
end

