-- ==== Sys2Proof/Machine/BulkCopy.lean ====
section
/-! DEFINITION. The bulk-copy engine (40_bulk_copy_dma.md): `OAM_TRIG` and the five cases of the
bulk-copy step of `TICK`. -/

namespace Sys2Proof.Machine

/-- What a bulk-copy trigger does to the Conflict Ledger (R80, 92_eei_decisions.md D10). -/
def ledgerAtTrigger (s : State) : ConflictLedger :=
  { s.cl with
    oamResumeCycle := if s.oam.phase.isPaused then s.now else s.cl.oamResumeCycle
    alignOwed := false }

/-- The bulk-copy record a trigger leaves (R80). -/
def freshTransfer (page : Byte) (odd : Bool) : Oam :=
  { active := true
    sourcePage := page
    currentOffset := 0#8
    currentCycle := 0#16
    needsAlignment := odd
    tempValue := 0#8
    phase := if odd then .aligning else .reading }

/-- `OAM_TRIG page, odd`: start, or restart, a transfer (R80, R89). -/
def startCopy (page : Byte) (odd : Bool) (s : State) : State :=
  (s.setCl (ledgerAtTrigger s)).setOam (freshTransfer page odd)

/-- `OAM_TRIG page, odd` (R80). -/
def execOamTrig (page : Byte) (odd : Bool) (s : State) : Host.Outcome State Fault Refusal :=
  .next (startCopy page odd s)

/-- `StartupAlign` (R82). -/
def startupAlign (s : State) : State :=
  s.setOam { s.oam with needsAlignment := false, phase := .reading }

/-- `ReadHalf` (R83). -/
def readHalf (s : State) : State :=
  (issueRead .bulkCopy (oamSourceAddr s) s).setOam { s.oam with
    tempValue := mainByte s.env (oamSourceAddr s)
    currentCycle := s.oam.currentCycle + 1#16
    phase := .writing }

/-- `WriteHalf` (R84). -/
def writeHalf (s : State) : State :=
  (secWrite s.oam.tempValue s).setOam { s.oam with
    currentOffset := s.oam.currentOffset + 1#8
    currentCycle := s.oam.currentCycle + 1#16
    phase := if s.oam.currentCycle + 1#16 = Config.transferHalfCycles then .completing else .reading }

/-- `ResumeAlign` (R85). -/
def resumeAlign (s : State) : State := s.setCl { s.cl with alignOwed := false }

/-- `Complete` (R86). -/
def complete (s : State) : State := s.setOam Oam.reset

/-- `OamStep` (R81): the owed alignment first, then by phase; nothing in the phases that cannot occur. -/
def oamStep (s : State) : State :=
  if s.cl.alignOwed then resumeAlign s
  else
    match s.oam.phase with
    | .aligning => startupAlign s
    | .reading => readHalf s
    | .writing => writeHalf s
    | .completing => complete s
    | .idle => s
    | .pausedDuringRead => s
    | .pausedDuringWrite => s

end Sys2Proof.Machine
end

