-- ==== Sys2Proof/Machine/SampleFetch.lean ====
section
/-! DEFINITION. The sample-fetch engine (41_sample_fetch_dma.md): `DMC_TRIG`, `CPU_RD` and the three
cases of the sample-fetch step of `TICK`. -/

namespace Sys2Proof.Machine

/-- `DMC_TRIG addr`: start, or restart, a fetch; the stamp is taken only when the engine becomes active
(R100, R108). -/
def startFetch (addr : Addr) (s : State) : State :=
  (s.setCl { s.cl with dmcActiveCycle := if s.dmc.rdyLow then s.cl.dmcActiveCycle else s.now }).setDmc
    { s.dmc with rdyLow := true, stallCyclesRemaining := Config.stallLen, sampleAddress := addr }

/-- `DMC_TRIG addr` (R100). -/
def execDmcTrig (addr : Addr) (s : State) : Host.Outcome State Fault Refusal :=
  .next (startFetch addr s)

/-- `CPU_RD addr`: kept unless a stall is in progress (R101). -/
def reportRead (addr : Addr) (s : State) : State :=
  if s.dmc.rdyLow then s else s.setDmc { s.dmc with lastReadAddress := addr }

/-- `CPU_RD addr` (R101). -/
def execCpuRd (addr : Addr) (s : State) : Host.Outcome State Fault Refusal :=
  .next (reportRead addr s)

/-- `FetchCycle` (R106). -/
def fetchCycle (s : State) : State :=
  ((issueRead .sampleFetch s.dmc.sampleAddress s).setDmc { s.dmc with
    stallCyclesRemaining := 0
    sampleByte := mainByte s.env s.dmc.sampleAddress
    rdyLow := false }).setCl { s.cl with dmcInactiveCycle := s.now }

/-- `RepeatRead`: the byte returned is stored nowhere (R105). -/
def repeatRead (s : State) : State := issueRead .repeatRead s.dmc.lastReadAddress s

/-- Stall cycles 1, 2 and 3: the decrement (R104). -/
def countStall (s : State) : State :=
  s.setDmc { s.dmc with stallCyclesRemaining := stallPred s.dmc.stallCyclesRemaining }

/-- A stall cycle before the last (R102 to R105). -/
def stallCycle (s : State) : State :=
  if s.env.repeatReadRev && isRepeatCycle (stallCycleNumber (stallPred s.dmc.stallCyclesRemaining))
  then repeatRead (countStall s)
  else countStall s

/-- `DmcStep` (R102). -/
def dmcStep (s : State) : State :=
  if s.dmc.stallCyclesRemaining.val ≤ 1 then fetchCycle s else stallCycle s

end Sys2Proof.Machine
end

