-- ==== Sys2Proof/Machine/Arbitration.lean ====
section
/-! DEFINITION. `TICK` (42_arbitration_tick.md R120): the time base, the owner of the cycle, and the
step of the engine that owns it. -/

namespace Sys2Proof.Machine

/-- Hold the bulk-copy engine if it is active (R122 (1)). -/
def holdOam (s : State) : State := if s.oam.active then pauseOam s else s

/-- Resume the bulk-copy engine if the stall ended in this tick (R122 (3)). -/
def resumeIfEnded (s : State) : State := if s.dmc.rdyLow then s else resumeOam s

/-- A tick owned by the sample-fetch engine (R122). -/
def dmcTick (s : State) : State := resumeIfEnded (dmcStep (holdOam s))

/-- `TICK`: the increment of `now` comes first; the owner is decided once, from the state at the start
of the tick (R120, R121). -/
def tick (s : State) : State :=
  match owner s with
  | .dmc => dmcTick (s.setNow (s.now + 1#64))
  | .oam => oamStep (s.setNow (s.now + 1#64))
  | .none => s.setNow (s.now + 1#64)

/-- `TICK` (R120). -/
def execTick (s : State) : Host.Outcome State Fault Refusal := .next (tick s)

end Sys2Proof.Machine
end

