-- ==== Sys2Proof/Machine/Flags.lean ====
section
/-! DEFINITION. The one-bit computations: the interrupt line, the `halt` signal and the other outputs of
10_state.md R33, and the states of the Interrupt Ledger. -/

namespace Sys2Proof.Machine

/-- `il.line <- il.flag and il.enable` (43_interrupt_ledger.md R155). -/
def recomputeLine (l : InterruptLedger) : InterruptLedger := { l with line := l.flag && l.enable }

/-- The flag goes to 0, stamping the time if it was 1, and the line is recomputed
(43_interrupt_ledger.md R152, R153). -/
def clearFlag (now : Stamp) (l : InterruptLedger) : InterruptLedger :=
  recomputeLine { l with
    lastClearCycle := if l.flag then now else l.lastClearCycle
    flag := false }

/-- `halt = dmc.rdy_low or oam.active` (42_arbitration_tick.md R127). -/
def halt (s : State) : Bool := s.dmc.rdyLow || s.oam.active

/-- `int_line = il.line` (43_interrupt_ledger.md R156). -/
def intLine (s : State) : Bool := s.il.line

/-- The outputs of 10_state.md R33. -/
structure Outputs where
  halt : Bool
  intLine : Bool
  sampleByte : Byte
  dmcBusy : Bool
  oamBusy : Bool
  flag : Bool
  spanActive : Bool
  deriving DecidableEq, Repr

/-- Each output "is a pure function of the state as it stands between two operations" (10_state.md R33). -/
def outputs (s : State) : Outputs :=
  { halt := halt s
    intLine := intLine s
    sampleByte := s.dmc.sampleByte
    dmcBusy := s.dmc.rdyLow
    oamBusy := s.oam.active
    flag := s.il.flag
    spanActive := s.il.spanActive }

/-- The response on a 32-bit port: `zext_32(rsp)` (30_encoding.md R68). -/
def responseWord (s : State) : Option CmdWord :=
  s.port.response.map (fun r => (BitVec.ofBool r).setWidth 32)

/-- The states of the pair (`flag`, `span_active`) (43_interrupt_ledger.md R150). -/
inductive WindowState where
  /-- flag 0, span 0 -/
  | s0
  /-- flag 1, span 1 -/
  | s1
  /-- flag 0, span 1 -/
  | s2
  deriving DecidableEq, Repr

/-- The state of the ledger; flag 1 with span 0 is none of the three (10_state.md R37 (b)). -/
def windowState (l : InterruptLedger) : Option WindowState :=
  match l.flag, l.spanActive with
  | false, false => some .s0
  | true, true => some .s1
  | false, true => some .s2
  | true, false => none

end Sys2Proof.Machine
end

