-- ==== Sys2Proof/Machine/Interrupt.lean ====
section
/-! DEFINITION. The Interrupt Ledger's four operations (43_interrupt_ledger.md). -/

namespace Sys2Proof.Machine

/-- `WIN_START` (R151). -/
def windowStart (s : State) : State :=
  s.setIl (recomputeLine { s.il with spanActive := true, flag := true, lastSetCycle := s.now })

/-- `WIN_START` (R151). -/
def execWinStart (s : State) : Host.Outcome State Fault Refusal := .next (windowStart s)

/-- `WIN_END` (R152). -/
def windowEnd (s : State) : State :=
  s.setIl { clearFlag s.now s.il with spanActive := false }

/-- `WIN_END` (R152). -/
def execWinEnd (s : State) : Host.Outcome State Fault Refusal := .next (windowEnd s)

/-- `ST_READ`: respond with the flag as it was, then clear it (R153, 30_encoding.md R68). -/
def readStatus (s : State) : State :=
  (s.setIl { clearFlag s.now s.il with lastReadCycle := s.now }).setPort
    { s.port with response := some s.il.flag }

/-- `ST_READ` (R153). -/
def execStRead (s : State) : Host.Outcome State Fault Refusal := .next (readStatus s)

/-- `EN_WRITE en` (R154). -/
def writeEnable (en : Bool) (s : State) : State :=
  s.setIl (recomputeLine { s.il with enable := en })

/-- `EN_WRITE en` (R154). -/
def execEnWrite (en : Bool) (s : State) : Host.Outcome State Fault Refusal := .next (writeEnable en s)

end Sys2Proof.Machine
end

