-- ==== Sys2Proof/Machine/System.lean ====
section
/-! DEFINITION. `RESET` (44_system_ops.md R170). -/

namespace Sys2Proof.Machine

/-- `RESET`: all 25 fields of the block to their reset values; the strap, the memories and the
destination pointer are not affected (R170). -/
def resetBlock (s : State) : State :=
  { s with
    now := 0#64
    oam := Oam.reset
    dmc := Dmc.reset
    cl := ConflictLedger.reset
    il := InterruptLedger.reset }

/-- `RESET` (R170). -/
def execReset (s : State) : Host.Outcome State Fault Refusal := .next (resetBlock s)

end Sys2Proof.Machine
end

