-- ==== Sys2Proof/Machine/Dispatch.lean ====
section
/-! DEFINITION. One arm per operation. -/

namespace Sys2Proof.Machine

def exec (i : Instr) (s : State) : Host.Outcome State Fault Refusal :=
  match i with
  | .tick => Sys2Proof.Machine.execTick s
  | .oamTrig page odd => Sys2Proof.Machine.execOamTrig page odd s
  | .dmcTrig addr => Sys2Proof.Machine.execDmcTrig addr s
  | .cpuRd addr => Sys2Proof.Machine.execCpuRd addr s
  | .stRead => Sys2Proof.Machine.execStRead s
  | .enWrite en => Sys2Proof.Machine.execEnWrite en s
  | .winStart => Sys2Proof.Machine.execWinStart s
  | .winEnd => Sys2Proof.Machine.execWinEnd s
  | .reset => Sys2Proof.Machine.execReset s

end Sys2Proof.Machine
end

