-- ==== Sys2Proof/Machine/Fetch.lean ====
section
/-! DEFINITION. The command port: the word it presents, taking it, and placing words on it
(30_encoding.md R60, R65). -/

namespace Sys2Proof.Machine

/-- The word an idle command port presents: "The all-zero word is `TICK`, so an idle command port
clocks the block" (30_encoding.md R65). -/
def idleWord : CmdWord := 0x00000000#32

/-- The word on the command port. -/
def presentedWord (s : State) : CmdWord := s.port.pending.headD idleWord

/-- The response of an operation is withdrawn before the next is performed: only `ST_READ` returns data,
"All other operations return nothing" (30_encoding.md R68). -/
def withdrawResponse (s : State) : State := s.setPort { s.port with response := none }

/-- The word is taken from the port, and the response of the operation before it is withdrawn. -/
def takeWord (s : State) : State :=
  withdrawResponse (s.setPort { s.port with pending := s.port.pending.tail })

/-- Put a word on the command port, in front of those already waiting. -/
def presentWord (w : CmdWord) (s : State) : State :=
  s.setPort { s.port with pending := w :: s.port.pending }

/-- Load the words of a sequence of operations: the host's trace. -/
def loadTrace (ops : List Instr) (s : State) : State :=
  s.setPort { s.port with pending := ops.map encode }

end Sys2Proof.Machine
end

