-- ==== Sys2Proof/Machine/Step.lean ====
section
/-! DEFINITION. One step: take the word on the command port, decode it, perform the operation it spells
(00_scope.md R1); a word that spells none is refused by name (30_encoding.md R66). -/

namespace Sys2Proof.Machine

def step (s : State) : Host.Outcome State Fault Refusal :=
  match decodeWord (presentedWord s) with
  | .ok i => exec i (takeWord s)
  | .error r => .refused (.spellsNoOperation r)

/-- The state with the opcode-table word `w` the next on its command port. -/
def State.withFetchWord (s : State) (nbits w : Nat) : State := presentWord (tableWord nbits w) s

end Sys2Proof.Machine
end

