-- ==== Sys2Proof/Machine/Trace.lean ====
section
/-! DEFINITION. Sequences of operations: running them, the three pseudo-operations of 30_encoding.md R70,
and the textual form of a trace (R69). Nothing here is part of the block. -/

namespace Sys2Proof.Machine

/-- Perform operations in order, one complete before the next begins (00_scope.md R1), without a command
port: what `step` does with their words (`takeWord`, then `exec`), less the words. -/
def runOps : List Instr → State → Host.Outcome State Fault Refusal
  | [], s => .next s
  | i :: is, s =>
    match exec i (withdrawResponse s) with
    | .next t => runOps is t
    | .fault r => .fault r
    | .refused r => .refused r

/-- The state after `n` ticks. -/
def ticks : Nat → State → State
  | 0, s => s
  | n + 1, s => ticks n (tick s)

/-- The bound on a stall, in ticks (70_reset_and_hazards.md R216). -/
def stallBound : Nat := 518

/-- How many ticks `RUN_UNTIL_IDLE` performs: `TICK` "repeated while `halt == 1`, evaluated before each
`TICK`" (R70), at most `fuel` of them. -/
def ticksToIdle : Nat → State → Nat
  | 0, _ => 0
  | fuel + 1, s => if halt s then ticksToIdle fuel (tick s) + 1 else 0

/-- The operations of a well-formed line. `OAM_START` takes the parity from the block's own time base, so
a line is expanded at the state it is reached in (R70). -/
def lineOps (l : TraceLine) (s : State) : List Instr :=
  match l with
  | .tick => [.tick]
  | .oamTrig page odd => [.oamTrig (BitVec.ofNat 8 page) (odd == 1)]
  | .dmcTrig addr => [.dmcTrig (BitVec.ofNat 16 addr)]
  | .cpuRd addr => [.cpuRd (BitVec.ofNat 16 addr)]
  | .stRead => [.stRead]
  | .enWrite en => [.enWrite (en == 1)]
  | .winStart => [.winStart]
  | .winEnd => [.winEnd]
  | .reset => [.reset]
  | .ticks n => List.replicate n .tick
  | .oamStart page => [.oamTrig (BitVec.ofNat 8 page) (parityOf s)]
  | .runUntilIdle => List.replicate (ticksToIdle stallBound s) .tick

/-- "An operand out of range is an assembly error (no word is produced)" (R69). -/
def expandLine (l : TraceLine) (s : State) : Option (List Instr) :=
  if l.wellFormed then some (lineOps l s) else none

/-- Run a trace, "executed top to bottom" (R69); none where a line is an assembly error. -/
def runLines : List TraceLine → State → Option (Host.Outcome State Fault Refusal)
  | [], s => some (.next s)
  | l :: ls, s =>
    match expandLine l s with
    | none => none
    | some ops =>
      match runOps ops s with
      | .next t => runLines ls t
      | .fault r => some (.fault r)
      | .refused r => some (.refused r)

/-! The textual form (R69). -/

/-- Why a line of text is not a line of a trace. -/
inductive LineError where
  | unknownMnemonic
  | operandCount
  | badNumber
  | outOfRange
  deriving DecidableEq, Repr

def isBlankChar (c : Char) : Bool := c == ' ' || c == '\t' || c == '\r'

def trimBlanks (cs : List Char) : List Char :=
  ((cs.dropWhile isBlankChar).reverse.dropWhile isBlankChar).reverse

/-- "a comment runs from `;` to the end of the line" -/
def stripComment (cs : List Char) : List Char := cs.takeWhile (· != ';')

/-- The pieces of a text between separators. -/
def splitAtChar (sep : Char) : List Char → List (List Char)
  | [] => [[]]
  | c :: cs =>
    if c == sep then [] :: splitAtChar sep cs
    else
      match splitAtChar sep cs with
      | [] => [[c]]
      | w :: ws => (c :: w) :: ws

/-- The digits of the two number forms of R69 (decimal, and hexadecimal after `0x`), in the order of their
values. -/
def numberDigits : List Char := "0123456789ABCDEF".toList

/-- The value of a digit is its place among the first `base` digits; a hexadecimal letter may be of either
case (log entry 15). -/
def digitValue (base : Nat) (c : Char) : Option Nat :=
  (numberDigits.take base).findIdx? (fun d => d == c.toUpper)

def digitsValue (base : Nat) : Nat → List Char → Option Nat
  | acc, [] => some acc
  | acc, c :: cs =>
    match digitValue base c with
    | some d => digitsValue base (acc * base + d) cs
    | none => none

/-- "numbers are decimal, or hexadecimal with the prefix `0x`" -/
def parseNumber : List Char → Option Nat
  | [] => none
  | '0' :: 'x' :: [] => none
  | '0' :: 'x' :: cs => digitsValue 16 0 cs
  | cs => digitsValue 10 0 cs

/-- The operands of a line, separated by commas. -/
def parseOperands (cs : List Char) : Option (List Nat) :=
  if cs.isEmpty then some [] else ((splitAtChar ',' cs).map (fun w => parseNumber (trimBlanks w))).mapM id

/-- Mnemonics that take no operand. -/
def bareLine (m : List Char) : Option TraceLine :=
  if m = "TICK".toList then some .tick
  else if m = "ST_READ".toList then some .stRead
  else if m = "WIN_START".toList then some .winStart
  else if m = "WIN_END".toList then some .winEnd
  else if m = "RESET".toList then some .reset
  else if m = "RUN_UNTIL_IDLE".toList then some .runUntilIdle
  else none

/-- Mnemonics that take one operand. -/
def unaryLine (m : List Char) (a : Nat) : Option TraceLine :=
  if m = "DMC_TRIG".toList then some (.dmcTrig a)
  else if m = "CPU_RD".toList then some (.cpuRd a)
  else if m = "EN_WRITE".toList then some (.enWrite a)
  else if m = "TICKS".toList then some (.ticks a)
  else if m = "OAM_START".toList then some (.oamStart a)
  else none

/-- Mnemonics that take two operands. -/
def binaryLine (m : List Char) (a b : Nat) : Option TraceLine :=
  if m = "OAM_TRIG".toList then some (.oamTrig a b) else none

/-- The forms of R69 and R70, by mnemonic and number of operands. -/
def lineForm (m : List Char) (operands : List Nat) : Except LineError TraceLine :=
  let found :=
    match operands with
    | [] => bareLine m
    | [a] => unaryLine m a
    | [a, b] => binaryLine m a b
    | _ => none
  match found with
  | some l => if l.wellFormed then .ok l else .error .outOfRange
  | none =>
    if (bareLine m).isSome || (unaryLine m 0).isSome || (binaryLine m 0 0).isSome
    then .error .operandCount else .error .unknownMnemonic

/-- One line of text; none where it is blank or a comment (R69). -/
def parseLine (cs : List Char) : Except LineError (Option TraceLine) :=
  let body := trimBlanks (stripComment cs)
  if body.isEmpty then .ok none
  else
    let m := body.takeWhile (fun c => !isBlankChar c)
    match parseOperands (trimBlanks (body.dropWhile (fun c => !isBlankChar c))) with
    | none => .error .badNumber
    | some ns =>
      match lineForm m ns with
      | .ok l => .ok (some l)
      | .error e => .error e

/-- The lines of a text, blank ones left out; the first assembly error otherwise. -/
def parseLines : List (List Char) → Except LineError (List TraceLine)
  | [] => .ok []
  | cs :: rest =>
    match parseLine cs with
    | .error e => .error e
    | .ok none => parseLines rest
    | .ok (some l) =>
      match parseLines rest with
      | .ok ls => .ok (l :: ls)
      | .error e => .error e

/-- A trace from its text: "one operation per line" (R69). -/
def assemble (text : String) : Except LineError (List TraceLine) :=
  parseLines (splitAtChar '\n' text.toList)

end Sys2Proof.Machine
end

