-- ==== Sys2Proof/Machine/HostCycle.lean ====
section
/-! DEFINITION. The host's side of one processor cycle: the operations the events of the cycle give, and the
orders a host may present them in (60_exceptions.md R184), under the halt contract (70_reset_and_hazards.md
R210) and with exactly one `TICK` (R211). The canonical order is the reference order of
92_eei_decisions.md D21. The block is defined for every order (R184), and nothing in the block's meaning
rests on this file. -/

namespace Sys2Proof.Machine

/-- A processor bus access as the host decodes it (10_state.md R34); the block sees no register address
(92_eei_decisions.md D23). -/
inductive ProcessorAccess where
  /-- a read that is not of the status register -/
  | read (addr : Addr)
  /-- a read of the status register, at its address -/
  | statusRead (addr : Addr)
  /-- a write of a page to the bulk-copy trigger register -/
  | triggerWrite (page : Byte)
  /-- a write that gives the interrupt-enable bit a value -/
  | enableWrite (en : Bool)
  /-- any other write; writes are not reported (41_sample_fetch_dma.md R101) -/
  | otherWrite
  deriving DecidableEq, Repr

/-- A boundary of the vertical-blank window. -/
inductive WindowEdge where
  | start
  | finish
  deriving DecidableEq, Repr

/-- What happens in the console in one processor cycle. -/
structure CycleEvents where
  window : Option WindowEdge
  sampleRequest : Option Addr
  access : Option ProcessorAccess
  deriving DecidableEq, Repr

def windowOps : Option WindowEdge → List Instr
  | none => []
  | some .start => [.winStart]
  | some .finish => [.winEnd]

def sampleOps : Option Addr → List Instr
  | none => []
  | some addr => [.dmcTrig addr]

/-- The operations of a processor access (10_state.md R34, R184 step 4), the parity operand in its
default wiring. -/
def accessOps (odd : Bool) : Option ProcessorAccess → List Instr
  | none => []
  | some (.read addr) => [.cpuRd addr]
  | some (.statusRead addr) => [.cpuRd addr, .stRead]
  | some (.triggerWrite page) => [.oamTrig page odd]
  | some (.enableWrite en) => [.enWrite en]
  | some .otherWrite => []

/-- The processor's operations in a cycle: none where the halt sampled at its start was 1 (R184 step 4, R210). -/
def processorOps (e : CycleEvents) (s : State) : List Instr :=
  if halt s then [] else accessOps (parityOf s) e.access

/-- The operations the events of one cycle give, in the reference order of D21: video events, then the
processor's own access, then the sample request. -/
def cycleEvents (e : CycleEvents) (s : State) : List Instr :=
  windowOps e.window ++ processorOps e s ++ sampleOps e.sampleRequest

/-- One processor cycle in the canonical order: the events in the reference order, then `TICK` (R184, D21). -/
def canonicalCycle (e : CycleEvents) (s : State) : List Instr := cycleEvents e s ++ [.tick]

/-- The same cycle in the order in which the steps of R184 are listed, the sample request before the
processor's access (log entry 10). -/
def listedCycle (e : CycleEvents) (s : State) : List Instr :=
  windowOps e.window ++ sampleOps e.sampleRequest ++ processorOps e s ++ [.tick]

/-- The operation lists of one cycle for every order a host may choose: "the **host** puts them in an order, and
the block's behaviour for every order is defined" (R184). -/
abbrev IsHostCycle (e : CycleEvents) (s : State) (ops : List Instr) : Prop :=
  ∃ events : List Instr, events.Perm (cycleEvents e s) ∧ ops = events ++ [.tick]

end Sys2Proof.Machine
end

