-- ==== Sys2Proof/Safety.lean ====
section
/-! DEFINITION. The invariants of 10_state.md R35 to R37 and of the stamps (R36 (c), R128, R160), the
canonical form of the memories, and the terms statements about whole runs use. -/

namespace Sys2Proof.Machine

/-- 10_state.md R35, clauses (a) to (h). -/
abbrev BulkCopyInv (s : State) : Prop :=
  (s.oam.active = true ↔ s.oam.phase ≠ .idle) ∧
  (s.oam.needsAlignment = true ↔ s.oam.phase = .aligning) ∧
  (s.oam.phase = .idle → s.oam.sourcePage = 0 ∧ s.oam.currentOffset = 0 ∧ s.oam.currentCycle = 0 ∧
    s.oam.tempValue = 0) ∧
  (s.oam.phase = .aligning → s.oam.currentCycle = 0 ∧ s.oam.currentOffset = 0) ∧
  (s.oam.phase = .reading ∨ s.oam.phase = .pausedDuringRead →
    s.oam.currentCycle.toNat % 2 = 0 ∧ s.oam.currentCycle.toNat ≤ 510 ∧
    s.oam.currentOffset.toNat = s.oam.currentCycle.toNat / 2) ∧
  (s.oam.phase = .writing ∨ s.oam.phase = .pausedDuringWrite →
    s.oam.currentCycle.toNat % 2 = 1 ∧ s.oam.currentCycle.toNat ≤ 511 ∧
    s.oam.currentOffset.toNat = (s.oam.currentCycle.toNat - 1) / 2) ∧
  (s.oam.phase = .completing → s.oam.currentCycle = 512 ∧ s.oam.currentOffset = 0) ∧
  Phase.code s.oam.phase ≠ 7

/-- 10_state.md R36, clauses (a), (b) and (d). -/
abbrev EngineInv (s : State) : Prop :=
  (s.dmc.rdyLow = true ↔ s.dmc.stallCyclesRemaining ≠ 0) ∧
  s.dmc.stallCyclesRemaining.val ≤ 4 ∧
  (s.oam.phase.isPaused = true → s.dmc.rdyLow = true) ∧
  (s.cl.alignOwed = true → s.oam.active = true ∧
    (s.oam.phase = .reading ∨ s.oam.phase = .writing ∨ s.oam.phase = .pausedDuringRead ∨
      s.oam.phase = .pausedDuringWrite))

/-- 10_state.md R37, clauses (a) and (b). -/
abbrev InterruptInv (s : State) : Prop :=
  s.il.line = (s.il.flag && s.il.enable) ∧
  (s.il.flag = true → s.il.spanActive = true)

/-- Both memories are in canonical form and inside their spaces (20_memory.md R40, R41). -/
abbrev MemoryInv (s : State) : Prop :=
  Memory.wf s.env.main = true ∧ Memory.within 65536 s.env.main = true ∧
  Memory.wf s.env.sec = true ∧ Memory.within 256 s.env.sec = true

/-- The invariants that hold whatever the time base does. -/
abbrev Inv (s : State) : Prop := BulkCopyInv s ∧ EngineInv s ∧ InterruptInv s ∧ MemoryInv s

/-- No stamp lies ahead of the time base, and the stamps agree with the bits they record: R36 (c) for the
pause, 42_arbitration_tick.md R128 for the stall, 43_interrupt_ledger.md R160 for the flag. It is kept
as long as `now` does not wrap. -/
abbrev StampInv (s : State) : Prop :=
  s.cl.dmcActiveCycle ≤ s.now ∧ s.cl.dmcInactiveCycle ≤ s.now ∧
  s.cl.oamPauseCycle ≤ s.now ∧ s.cl.oamResumeCycle ≤ s.now ∧
  s.il.lastSetCycle ≤ s.now ∧ s.il.lastClearCycle ≤ s.now ∧ s.il.lastReadCycle ≤ s.now ∧
  (s.oam.phase.isPaused = true ↔ s.cl.oamResumeCycle < s.cl.oamPauseCycle) ∧
  (s.dmc.rdyLow = true → s.cl.dmcInactiveCycle ≤ s.cl.dmcActiveCycle) ∧
  (s.dmc.rdyLow = false → s.cl.dmcActiveCycle ≤ s.cl.dmcInactiveCycle) ∧
  (s.il.flag = true → s.il.lastClearCycle ≤ s.il.lastSetCycle ∧ s.il.lastReadCycle ≤ s.il.lastSetCycle)

/-- The largest value of the time base, which a tick takes to 0 (00_scope.md R5). -/
def lastTick : Stamp := 0xFFFFFFFFFFFFFFFF#64

/-- The accesses of the bulk-copy engine in a bus log, in order. -/
def bulkAccesses (log : List BusAccess) : List BusAccess := log.filter isBulkAccess

/-- The access with another destination: a write of the same byte in the same tick, a read as it is. -/
def BusAccess.atDest (dest : Byte) : BusAccess → BusAccess
  | .read site tick addr v => .read site tick addr v
  | .write tick _ v => .write tick dest v

/-- The operation triggers nothing: neither `OAM_TRIG` nor `DMC_TRIG` (70_reset_and_hazards.md R216). -/
def triggersNothing : Instr → Bool
  | .tick => true
  | .oamTrig _ _ => false
  | .dmcTrig _ => false
  | .cpuRd _ => true
  | .stRead => true
  | .enWrite _ => true
  | .winStart => true
  | .winEnd => true
  | .reset => true

/-- An operation that can neither start nor abandon a transfer: neither `OAM_TRIG` nor `RESET`. -/
def keepsTransfer : Instr → Bool
  | .tick => true
  | .oamTrig _ _ => false
  | .dmcTrig _ => true
  | .cpuRd _ => true
  | .stRead => true
  | .enWrite _ => true
  | .winStart => true
  | .winEnd => true
  | .reset => false

/-- What a bulk-copy access does, without its tick: a read address or a destination, and the byte. -/
inductive CopyAction where
  | readsFrom (addr : Addr) (value : Byte)
  | writesTo (dest : Byte) (value : Byte)
  deriving DecidableEq, Repr

/-- The bulk-copy actions of a bus log, in order, without their ticks. -/
def copyActions : List BusAccess → List CopyAction
  | [] => []
  | .read .bulkCopy _ addr v :: log => .readsFrom addr v :: copyActions log
  | .read .sampleFetch _ _ _ :: log => copyActions log
  | .read .repeatRead _ _ _ :: log => copyActions log
  | .write _ dest v :: log => .writesTo dest v :: copyActions log

/-- The actions that copy the given bytes in ascending offset order, from `offset` of `page` on, to
consecutive destinations from `dest` on: each byte read once and then written once. -/
def copySequence (page offset dest : Byte) : List Byte → List CopyAction
  | [] => []
  | b :: bs => .readsFrom (page ++ offset) b :: .writesTo dest b ::
      copySequence page (offset + 1#8) (dest + 1#8) bs

end Sys2Proof.Machine
end

