-- ==== Sys2Proof/Certificates/Slice0/Obligations.lean ====
section
/-! DEFINITION. The statements for the provers. Each docstring names the rule of spec/ it formalises, and
where a clause rests on a decision the spec marks as its own (92_eei_decisions.md D<n>) or on a choice of
the model (a log entry), it says so. "Stopped" never occurs: the block raises no exception, and every
operation completes in every state. -/

open Sys2Proof Sys2Proof.Machine

/-! ### Encoding -/

/-- 30_encoding.md section 3, the round trips of rule R67 (the encoding is the spec's decision D2): decoding
an encoded operation gives it back, and a word that decodes is the encoding of what it decodes to. -/
def Obligations.DecodeEncodeRoundTrip : Prop :=
  (∀ i : Instr, decodeWord (encode i) = .ok i) ∧
  (∀ (w : CmdWord) (i : Instr), decodeWord w = .ok i → encode i = w)

/-- 30_encoding.md section 3, rule R72 (decision D25): the bytes of an encoded operation, least significant
first, decode to it, whatever bytes follow. -/
def Obligations.ByteCarrierRoundTrip : Prop :=
  ∀ (i : Instr) (rest : List Byte),
    decodeBytes (bytesOfWord (encode i) ++ rest) = .ok (i, rest) ∧
    bytesOfWord (encode i) =
      [(encode i).extractLsb' 0 8, (encode i).extractLsb' 8 8, (encode i).extractLsb' 16 8,
       (encode i).extractLsb' 24 8]

/-- 30_encoding.md section 2, rules R60 to R64 (decision D2): every operand stands in its own bits of the
word, as it is, and every other bit below `op` is zero. -/
def Obligations.EncodingFields : Prop :=
  (∀ (page : Byte) (odd : Bool),
    (encode (.oamTrig page odd)).extractLsb' 28 4 = 0x1#4 ∧
    (encode (.oamTrig page odd)).extractLsb' 17 11 = 0#11 ∧
    (encode (.oamTrig page odd)).getLsbD 16 = odd ∧
    (encode (.oamTrig page odd)).extractLsb' 8 8 = 0#8 ∧
    (encode (.oamTrig page odd)).extractLsb' 0 8 = page) ∧
  (∀ addr : Addr,
    (encode (.dmcTrig addr)).extractLsb' 28 4 = 0x2#4 ∧
    (encode (.dmcTrig addr)).extractLsb' 16 12 = 0#12 ∧
    (encode (.dmcTrig addr)).extractLsb' 0 16 = addr) ∧
  (∀ addr : Addr,
    (encode (.cpuRd addr)).extractLsb' 28 4 = 0x3#4 ∧
    (encode (.cpuRd addr)).extractLsb' 16 12 = 0#12 ∧
    (encode (.cpuRd addr)).extractLsb' 0 16 = addr) ∧
  (∀ en : Bool,
    (encode (.enWrite en)).extractLsb' 28 4 = 0x5#4 ∧
    (encode (.enWrite en)).extractLsb' 1 27 = 0#27 ∧
    (encode (.enWrite en)).getLsbD 0 = en) ∧
  encode .tick = 0x00000000#32 ∧ encode .stRead = 0x40000000#32 ∧ encode .winStart = 0x60000000#32 ∧
  encode .winEnd = 0x70000000#32 ∧ encode .reset = 0xF0000000#32

/-- 30_encoding.md section 3, rule R66 (decision D3): which words decode, said bit by bit; a word that does
not is refused by the decoder for the reason that holds of it, and a step that meets it is refused by
name. -/
def Obligations.IllegalWordsAreRefused : Prop :=
  (∀ w : CmdWord, (∃ i, decodeWord w = .ok i) ↔
    (w.extractLsb' 28 4 = 0x0#4 ∨ w.extractLsb' 28 4 = 0x4#4 ∨ w.extractLsb' 28 4 = 0x6#4 ∨
      w.extractLsb' 28 4 = 0x7#4 ∨ w.extractLsb' 28 4 = 0xF#4) ∧ w.extractLsb' 0 28 = 0#28 ∨
    w.extractLsb' 28 4 = 0x1#4 ∧ w.extractLsb' 17 11 = 0#11 ∧ w.extractLsb' 8 8 = 0#8 ∨
    (w.extractLsb' 28 4 = 0x2#4 ∨ w.extractLsb' 28 4 = 0x3#4) ∧ w.extractLsb' 16 12 = 0#12 ∨
    w.extractLsb' 28 4 = 0x5#4 ∧ w.extractLsb' 1 27 = 0#27) ∧
  (∀ (w : CmdWord) (r : Reject), decodeWord w = .error r →
    r = if 0x8#4 ≤ w.extractLsb' 28 4 ∧ w.extractLsb' 28 4 ≤ 0xE#4
      then .reservedOp (w.extractLsb' 28 4) else .mustBeZero (w.extractLsb' 28 4)) ∧
  (∀ (s : State) (w : CmdWord) (ws : List CmdWord) (r : Reject), s.port.pending = w :: ws →
    decodeWord w = .error r → step s = .refused (.spellsNoOperation r))

/-- 30_encoding.md section 3, rule R65 (decision D2): "The nine masks and matches are disjoint: no word
matches two rows", and a word that hits a row decodes to an operation of that row. -/
def Obligations.OpcodeRowsDisjoint : Prop :=
  (∀ (w : CmdWord) (r r' : OpcodeRow), r ∈ opcodeMap → r' ∈ opcodeMap → r.hits w = true → r'.hits w = true →
    r = r') ∧
  (∀ (w : CmdWord) (r : OpcodeRow), r ∈ opcodeMap → r.hits w = true → ∃ i, decodeWord w = .ok i ∧ i.row = r)

/-- 30_encoding.md section 5 (the encoding is the spec's decision D2): the worked encodings. -/
def Obligations.WorkedEncodingsDecode : Prop :=
  decodeWord 0x00000000#32 = .ok .tick ∧
  decodeWord 0x10000002#32 = .ok (.oamTrig 0x02#8 false) ∧
  decodeWord 0x10010002#32 = .ok (.oamTrig 0x02#8 true) ∧
  decodeWord 0x100100FF#32 = .ok (.oamTrig 0xFF#8 true) ∧
  decodeWord 0x2000C000#32 = .ok (.dmcTrig 0xC000#16) ∧
  decodeWord 0x30004016#32 = .ok (.cpuRd 0x4016#16) ∧
  decodeWord 0x40000000#32 = .ok .stRead ∧
  decodeWord 0x50000001#32 = .ok (.enWrite true) ∧
  decodeWord 0x50000000#32 = .ok (.enWrite false) ∧
  decodeWord 0x60000000#32 = .ok .winStart ∧
  decodeWord 0x70000000#32 = .ok .winEnd ∧
  decodeWord 0xF0000000#32 = .ok .reset ∧
  decodeWord 0x80000000#32 = .error (.reservedOp 0x8#4) ∧
  decodeWord 0x00000001#32 = .error (.mustBeZero 0x0#4) ∧
  decodeWord 0x10000102#32 = .error (.mustBeZero 0x1#4) ∧
  decodeWord 0x50000002#32 = .error (.mustBeZero 0x5#4) ∧
  decodeWord 0x20010000#32 = .error (.mustBeZero 0x2#4)

/-! ### The step -/

/-- 00_scope.md section 6, rule R1, with 30_encoding.md sections 2 and 3: a step performs the operation the
next word spells, after the word is taken from the port and the response of the operation before is
withdrawn; an idle port clocks the block. The command queue is the model's choice (log entry 7), and so
is the moment a response is withdrawn (log entry 8). -/
def Obligations.StepPerformsDecodedOperation : Prop :=
  (∀ (s : State) (w : CmdWord) (ws : List CmdWord) (i : Instr),
    s.port.pending = w :: ws → decodeWord w = .ok i →
    step s = exec i { s with port := { pending := ws, response := none } }) ∧
  (∀ s : State, s.port.pending = [] →
    step s = exec .tick { s with port := { pending := [], response := none } })

/-- 00_scope.md section 6, rule R1, on the model's command queue (log entry 7): the machine run over the
words of a sequence of operations performs them in order, each complete before the next begins. -/
def Obligations.LoadedTraceRunsInOrder : Prop :=
  ∀ (ops : List Instr) (s : State),
    Host.Core.run Sys2Proof.core ops.length (loadTrace ops s) =
      runOps ops { s with port := { s.port with pending := [] } }

/-- 00_scope.md R4: every operation is defined in every state, and the only refusal is of an undecodable
command word. -/
def Obligations.EveryOperationCompletes : Prop :=
  (∀ (i : Instr) (s : State), ∃ t, exec i s = .next t) ∧
  (∀ s : State,
    (∃ i t, decodeWord (presentedWord s) = .ok i ∧ step s = .next t) ∨
    (∃ r, decodeWord (presentedWord s) = .error r ∧ step s = .refused (.spellsNoOperation r)))

/-- 00_scope.md section 6, rule R2, for one operation: the next state of the block, its outputs, its response and
the bus accesses it issues depend on nothing but the block's state, the operation, the strap and the bytes
the main-memory port would return. The secondary memory and its pointer have a say only in where a write
goes (20_memory.md section 2): with another pointer the accesses are the same but for the destination, and
with the same pointer and the same contents the memory left is the same. The words waiting, and the past
accesses as far as the answers do not change, have no say in anything. -/
def Obligations.OutcomeDependsOnlyOnBlockAndAnswers : Prop :=
  ∀ (i : Instr) (s s' t t' : State),
    s.now = s'.now → s.oam = s'.oam → s.dmc = s'.dmc → s.cl = s'.cl → s.il = s'.il →
    s.env.repeatReadRev = s'.env.repeatReadRev →
    (∀ a : Addr, mainByte s.env a = mainByte s'.env a) →
    exec i s = .next t → exec i s' = .next t' →
    t.now = t'.now ∧ t.oam = t'.oam ∧ t.dmc = t'.dmc ∧ t.cl = t'.cl ∧ t.il = t'.il ∧
    outputs t = outputs t' ∧ (i = .stRead → t.port.response = t'.port.response) ∧
    (∃ issued : List BusAccess,
      t.env.busLog = s.env.busLog ++ issued ∧
      t'.env.busLog = s'.env.busLog ++ issued.map (BusAccess.atDest s'.env.destPtr) ∧
      issued.map (BusAccess.atDest s.env.destPtr) = issued) ∧
    (s.env.destPtr = s'.env.destPtr → t.env.destPtr = t'.env.destPtr) ∧
    (s.env.destPtr = s'.env.destPtr → s.env.sec = s'.env.sec → t.env.sec = t'.env.sec)

/-! ### Reset -/

/-- 44_system_ops.md, rule R170 (decisions D17 and D22): `RESET` completes in every state with all 25 fields
at 0, and with the strap, both memories, the destination pointer and the command port as they were. -/
def Obligations.ResetOperation : Prop :=
  encode .reset = 0xF0000000#32 ∧
  ∀ s : State, ∃ t, exec .reset s = .next t ∧
    t.now = 0#64 ∧
    t.oam = { active := false, sourcePage := 0#8, currentOffset := 0#8, currentCycle := 0#16,
              needsAlignment := false, tempValue := 0#8, phase := .idle } ∧
    t.dmc = { rdyLow := false, stallCyclesRemaining := 0, sampleAddress := 0#16, sampleByte := 0#8,
              lastReadAddress := 0#16 } ∧
    t.cl = { dmcActiveCycle := 0#64, dmcInactiveCycle := 0#64, oamPauseCycle := 0#64,
             oamResumeCycle := 0#64, alignOwed := false } ∧
    t.il = { flag := false, spanActive := false, enable := false, line := false, lastSetCycle := 0#64,
             lastClearCycle := 0#64, lastReadCycle := 0#64 } ∧
    t.env = s.env ∧ t.port = s.port ∧
    outputs t = { halt := false, intLine := false, sampleByte := 0#8, dmcBusy := false, oamBusy := false,
                  flag := false, spanActive := false } ∧
    exec .reset t = .next t

/-- The invariants hold in the reset state (10_state.md section 9), which is what `RESET` leaves there. -/
def Obligations.ResetStateMeetsInvariants : Prop :=
  Inv State.reset ∧ StampInv State.reset ∧ exec .reset State.reset = .next State.reset

/-! ### The triggers and the read monitor -/

/-- 40_bulk_copy_dma.md section 1, rules R80 and R89 (decisions D5 and D10): `OAM_TRIG` completes in every
state, with the bulk-copy record fresh whatever it held, no alignment owed, the resume stamp taken only if
the engine was paused, nothing else changed, no bus access, and `halt` high. -/
def Obligations.CopyTriggerStartsTransfer : Prop :=
  ∀ (page : Byte) (odd : Bool) (s : State), ∃ t, exec (.oamTrig page odd) s = .next t ∧
    t = { s with
      oam := { active := true, sourcePage := page, currentOffset := 0#8, currentCycle := 0#16,
               needsAlignment := odd, tempValue := 0#8, phase := if odd then .aligning else .reading }
      cl := { s.cl with
        alignOwed := false
        oamResumeCycle :=
          if s.oam.phase = .pausedDuringRead ∨ s.oam.phase = .pausedDuringWrite then s.now
          else s.cl.oamResumeCycle } } ∧
    halt t = true

/-- 41_sample_fetch_dma.md R100: `DMC_TRIG` completes in every state; the stall is set to 4, the address
recorded, the active stamp taken only when the engine becomes active, nothing else changed; `halt` and
`dmc_busy` are high, the next tick is the sample-fetch engine's, and a read reported now is not kept. -/
def Obligations.SampleTriggerStartsStall : Prop :=
  (∀ addr : Addr, encode (.dmcTrig addr) = 0x20000000#32 ||| addr.setWidth 32) ∧
  ∀ (addr : Addr) (s : State), ∃ t, exec (.dmcTrig addr) s = .next t ∧
    t = { s with
      dmc := { s.dmc with rdyLow := true, stallCyclesRemaining := 4, sampleAddress := addr }
      cl := { s.cl with dmcActiveCycle := if s.dmc.rdyLow = false then s.now else s.cl.dmcActiveCycle } } ∧
    halt t = true ∧ (outputs t).dmcBusy = true ∧ owner t = .dmc ∧
    ∀ addr' : Addr, exec (.cpuRd addr') t = .next t

/-- 41_sample_fetch_dma.md section 1, rule R101 (decision D15): `CPU_RD` completes in every state, keeping
the address only when no stall is in progress, and changes nothing else. -/
def Obligations.ReadReportKeepsAddress : Prop :=
  ∀ (addr : Addr) (s : State),
    (s.dmc.rdyLow = false →
      exec (.cpuRd addr) s = .next { s with dmc := { s.dmc with lastReadAddress := addr } }) ∧
    (s.dmc.rdyLow = true → exec (.cpuRd addr) s = .next s)

/-! ### The Interrupt Ledger -/

/-- 43_interrupt_ledger.md section 2, rule R153 (decision D18): `ST_READ` completes in every state, answers
the flag as it was, clears the flag and the line, stamps the read always and the clear only if the flag
fell, and changes nothing else; on a 32-bit port the answer is bit 0. -/
def Obligations.StatusReadAnswersAndClears : Prop :=
  ∀ s : State, ∃ t, exec .stRead s = .next t ∧
    t = { s with
      il := { s.il with
        flag := false
        line := false
        lastReadCycle := s.now
        lastClearCycle := if s.il.flag = true then s.now else s.il.lastClearCycle }
      port := { s.port with response := some s.il.flag } } ∧
    responseWord t = some (if s.il.flag = true then 1#32 else 0#32)

/-- 43_interrupt_ledger.md R154: `EN_WRITE` completes in every state: the enable bit takes the operand and
the line is recomputed at once from the flag and the new bit, never from the span; nothing else changes
and no stamp is taken. The corner cases are given as clauses. -/
def Obligations.EnableWriteRecomputesLine : Prop :=
  encode (.enWrite true) = 0x50000001#32 ∧ encode (.enWrite false) = 0x50000000#32 ∧
  ∀ (en : Bool) (s : State), ∃ t, exec (.enWrite en) s = .next t ∧
    t = { s with il := { s.il with enable := en, line := s.il.flag && en } } ∧
    (s.il.flag = true → en = true → intLine t = true) ∧
    (s.il.flag = false → intLine t = false) ∧
    (en = false → intLine t = false) ∧
    (s.il.line = (s.il.flag && s.il.enable) → en = s.il.enable → t = s) ∧
    (s.il.flag = true → ∀ u, exec (.enWrite false) s = .next u →
      intLine u = false ∧ ∃ v, exec (.enWrite true) u = .next v ∧ intLine v = true)

/-- 43_interrupt_ledger.md section 2, rule R151 (decision D19 for a window already open): `WIN_START`
completes in every state: span and flag 1, the set stamp taken, the line equal to the enable bit, nothing
else changed. -/
def Obligations.WindowStartSetsFlag : Prop :=
  ∀ s : State, exec .winStart s = .next
    { s with il := { s.il with
        spanActive := true, flag := true, lastSetCycle := s.now, line := s.il.enable } }

/-- 43_interrupt_ledger.md section 2, rule R152 (decisions D18, D19 and D26): `WIN_END` completes in every
state: span, flag and line 0, the clear stamp taken only if the flag was 1, nothing else changed. -/
def Obligations.WindowEndClearsFlag : Prop :=
  ∀ s : State, exec .winEnd s = .next
    { s with il := { s.il with
        spanActive := false, flag := false, line := false
        lastClearCycle := if s.il.flag = true then s.now else s.il.lastClearCycle } }

/-- 95_test_vectors.md P5 (the answer of the second read by decision D18): a second status read answers 0
and renews only the read stamp. -/
def Obligations.SecondStatusReadHasNoEffect : Prop :=
  ∀ s t u : State, exec .stRead s = .next t → exec .stRead t = .next u →
    u = { t with port := { t.port with response := some false } }

/-- 43_interrupt_ledger.md section 1, the table of rule R150 (`RESET`, which the table's last column does
not name, by rule R170): the state of the pair (`flag`, `span_active`) after every operation, from each of
its three states. -/
def Obligations.WindowStateTable : Prop :=
  ∀ (i : Instr) (s t : State) (w : WindowState), windowState s.il = some w → exec i s = .next t →
    (i = .winStart → windowState t.il = some .s1) ∧
    (i = .stRead → windowState t.il = some (if w = .s0 then .s0 else .s2) ∧
      t.port.response = some (decide (w = .s1))) ∧
    (i = .winEnd → windowState t.il = some .s0) ∧
    (i = .reset → windowState t.il = some .s0) ∧
    (i ≠ .winStart → i ≠ .stRead → i ≠ .winEnd → i ≠ .reset → windowState t.il = some w)

/-- 43_interrupt_ledger.md R155: the four operations of the ledger (and `RESET`) each end with the line
equal to flag AND enable, whatever it was before, and no other operation writes flag, enable or line; so
the equation holds after every operation before which it held. -/
def Obligations.LineIsFlagAndEnable : Prop :=
  ∀ (i : Instr) (s t : State), exec i s = .next t →
    ((i = .winStart ∨ i = .winEnd ∨ i = .stRead ∨ (∃ en, i = .enWrite en) ∨ i = .reset) →
      t.il.line = (t.il.flag && t.il.enable)) ∧
    ((i = .tick ∨ (∃ page odd, i = .oamTrig page odd) ∨ (∃ addr, i = .dmcTrig addr) ∨
        ∃ addr, i = .cpuRd addr) →
      t.il.flag = s.il.flag ∧ t.il.enable = s.il.enable ∧ t.il.line = s.il.line) ∧
    (s.il.line = (s.il.flag && s.il.enable) → t.il.line = (t.il.flag && t.il.enable))

/-- 43_interrupt_ledger.md section 3, rule R157, which the spec derives: in a state in which the line is
flag AND enable, an operation raises `int_line` exactly in the two cases of the rule. -/
def Obligations.RisingEdgesOfInterruptLine : Prop :=
  ∀ (i : Instr) (s t : State), s.il.line = (s.il.flag && s.il.enable) → exec i s = .next t →
    ((intLine s = false ∧ intLine t = true) ↔
      (i = .winStart ∧ s.il.enable = true ∧ s.il.flag = false) ∨
      (i = .enWrite true ∧ s.il.flag = true ∧ s.il.enable = false))

/-- 43_interrupt_ledger.md section 3, rule R158 (the resolution of conflict C2): once the flag is clear, no
sequence of operations without a `WIN_START` sets it, and the line stays low throughout. -/
def Obligations.NoInterruptBeforeNextWindow : Prop :=
  ∀ (ops : List Instr) (s t : State), s.il.flag = false → s.il.line = false →
    (∀ i ∈ ops, i ≠ .winStart) → runOps ops s = .next t → t.il.flag = false ∧ intLine t = false

/-! ### `TICK` -/

/-- 42_arbitration_tick.md section 2, rule R126, which the spec derives: a tick in which both engines are
idle completes; it increments `now` and changes nothing else, and `halt` stays low. -/
def Obligations.UnownedTickOnlyCounts : Prop :=
  ∀ s : State, s.dmc.rdyLow = false → s.oam.active = false →
    exec .tick s = .next { s with now := s.now + 1#64 } ∧ halt { s with now := s.now + 1#64 } = false

/-- 42_arbitration_tick.md R121: the owner of a cycle, sample-fetch first; being a function, it names one
owner. -/
def Obligations.SampleFetchOwnsContestedCycle : Prop :=
  ∀ s : State,
    (s.dmc.rdyLow = true → owner s = .dmc) ∧
    (s.dmc.rdyLow = false → s.oam.active = true → owner s = .oam) ∧
    (s.dmc.rdyLow = false → s.oam.active = false → owner s = .none)

/-- 40_bulk_copy_dma.md section 2, rules R82 and R85 (decision D7 for the first): the two bus-free waits of a
tick the bulk-copy engine owns. An owed alignment cycle is paid before anything else, in every phase. -/
def Obligations.AlignmentCyclesTouchNoBus : Prop :=
  ∀ s : State, s.dmc.rdyLow = false → s.oam.active = true →
    (s.cl.alignOwed = true →
      exec .tick s = .next { s with now := s.now + 1#64, cl := { s.cl with alignOwed := false } }) ∧
    (s.cl.alignOwed = false → s.oam.phase = .aligning →
      exec .tick s = .next
        { s with now := s.now + 1#64, oam := { s.oam with needsAlignment := false, phase := .reading } })

/-- 40_bulk_copy_dma.md section 2, rule R83: the read half-cycle completes: one main-memory read at page and
offset, its byte into `temp_value`, the half-cycle counted, the offset unchanged. The byte is what the host
answers: the statement holds for every answer (log entry 3). -/
def Obligations.ReadHalfReadsOneByte : Prop :=
  ∀ s : State, s.dmc.rdyLow = false → s.oam.active = true → s.cl.alignOwed = false → s.oam.phase = .reading →
    ∃ (v : Byte) (t : State), v = mainByte s.env (s.oam.sourcePage ++ s.oam.currentOffset) ∧
      exec .tick s = .next t ∧
      t = { s with
        now := s.now + 1#64
        oam := { s.oam with tempValue := v, currentCycle := s.oam.currentCycle + 1#16, phase := .writing }
        env := { s.env with busLog := s.env.busLog ++
          [.read .bulkCopy (s.now + 1#64) (s.oam.sourcePage ++ s.oam.currentOffset) v] } }

/-- 40_bulk_copy_dma.md section 2, rule R84 (decision D6), with the secondary memory's contract of
20_memory.md rule R41 (decision D16): the write half-cycle completes: `temp_value` goes to the destination
pointer's byte and to no other, the pointer and the offset advance modulo 256, the half-cycle is counted,
and the 512th leads to the completion cycle. -/
def Obligations.WriteHalfWritesOneByte : Prop :=
  ∀ s : State, s.dmc.rdyLow = false → s.oam.active = true → s.cl.alignOwed = false → s.oam.phase = .writing →
    ∃ t : State, exec .tick s = .next t ∧
      t.now = s.now + 1#64 ∧
      t.oam = { s.oam with
        currentOffset := s.oam.currentOffset + 1#8
        currentCycle := s.oam.currentCycle + 1#16
        phase := if s.oam.currentCycle = 511#16 then .completing else .reading } ∧
      t.dmc = s.dmc ∧ t.cl = s.cl ∧ t.il = s.il ∧ t.port = s.port ∧
      t.env.main = s.env.main ∧ t.env.repeatReadRev = s.env.repeatReadRev ∧
      t.env.destPtr = s.env.destPtr + 1#8 ∧
      t.env.busLog = s.env.busLog ++ [.write (s.now + 1#64) s.env.destPtr s.oam.tempValue] ∧
      Memory.read t.env.sec s.env.destPtr.toNat = some s.oam.tempValue ∧
      ∀ a : Nat, a ≠ s.env.destPtr.toNat → Memory.read t.env.sec a = Memory.read s.env.sec a

/-- 40_bulk_copy_dma.md section 2, rule R86 (decisions D6 and D27): the completion cycle completes: every
field of the bulk-copy record to its reset value, no bus access, `halt` low. -/
def Obligations.CompletionCycleResetsEngine : Prop :=
  ∀ s : State, s.dmc.rdyLow = false → s.oam.active = true → s.cl.alignOwed = false →
    s.oam.phase = .completing →
    exec .tick s = .next { s with
      now := s.now + 1#64
      oam := { active := false, sourcePage := 0#8, currentOffset := 0#8, currentCycle := 0#16,
               needsAlignment := false, tempValue := 0#8, phase := .idle } } ∧
    ∀ t, exec .tick s = .next t → halt t = false

/-- 41_sample_fetch_dma.md section 2, rules R102 to R105, and 42_arbitration_tick.md section 2, rules R122 and
R123 (decisions D9, D13 and D14): a stall cycle before the last completes: the count falls by one; with the
strap, stall cycles 2 and 3 read the last reported address and store nothing; an active bulk-copy engine is
held, and one in a half-cycle is paused with the time stamped. Everything else is unchanged. -/
def Obligations.StallCycleCountsAndHolds : Prop :=
  ∀ s : State, s.dmc.rdyLow = true → 2 ≤ s.dmc.stallCyclesRemaining.val →
    ∃ t : State, exec .tick s = .next t ∧
      t.now = s.now + 1#64 ∧ t.il = s.il ∧ t.port = s.port ∧
      (∃ r : Fin 5, r.val + 1 = s.dmc.stallCyclesRemaining.val ∧
        t.dmc = { s.dmc with stallCyclesRemaining := r }) ∧
      (s.env.repeatReadRev = true → s.dmc.stallCyclesRemaining.val ≤ 3 →
        t.env = { s.env with busLog := s.env.busLog ++
          [.read .repeatRead (s.now + 1#64) s.dmc.lastReadAddress (mainByte s.env s.dmc.lastReadAddress)] }) ∧
      (s.env.repeatReadRev = false ∨ s.dmc.stallCyclesRemaining.val = 4 → t.env = s.env) ∧
      (s.oam.active = true → s.oam.phase = .reading →
        t.oam = { s.oam with phase := .pausedDuringRead } ∧ t.cl = { s.cl with oamPauseCycle := s.now + 1#64 }) ∧
      (s.oam.active = true → s.oam.phase = .writing →
        t.oam = { s.oam with phase := .pausedDuringWrite } ∧ t.cl = { s.cl with oamPauseCycle := s.now + 1#64 }) ∧
      (s.oam.active = false ∨ (s.oam.phase ≠ .reading ∧ s.oam.phase ≠ .writing) →
        t.oam = s.oam ∧ t.cl = s.cl)

/-- 41_sample_fetch_dma.md section 2, rule R106, and 42_arbitration_tick.md section 2, rule R124 (decision
D10): the fetch cycle completes in every state that meets 10_state.md R35: one read at the sample address,
its byte into `sample_byte`, the stall over and stamped; an engine that is or was just paused resumes in the
same tick, stamped, with one alignment cycle owed; one in `aligning` or `completing` stays as it is. -/
def Obligations.FetchCycleEndsStallAndResumes : Prop :=
  ∀ s : State, BulkCopyInv s → s.dmc.rdyLow = true → s.dmc.stallCyclesRemaining.val ≤ 1 →
    ∃ (v : Byte) (t : State), v = mainByte s.env s.dmc.sampleAddress ∧ exec .tick s = .next t ∧
      t.now = s.now + 1#64 ∧ t.il = s.il ∧ t.port = s.port ∧
      t.dmc = { s.dmc with rdyLow := false, stallCyclesRemaining := 0, sampleByte := v } ∧
      t.env = { s.env with busLog := s.env.busLog ++
        [.read .sampleFetch (s.now + 1#64) s.dmc.sampleAddress v] } ∧
      halt t = s.oam.active ∧ (outputs t).dmcBusy = false ∧ (outputs t).sampleByte = v ∧
      (s.oam.phase = .reading →
        t.oam = s.oam ∧ t.cl = { s.cl with
          dmcInactiveCycle := s.now + 1#64, oamPauseCycle := s.now + 1#64, oamResumeCycle := s.now + 1#64
          alignOwed := true }) ∧
      (s.oam.phase = .writing →
        t.oam = s.oam ∧ t.cl = { s.cl with
          dmcInactiveCycle := s.now + 1#64, oamPauseCycle := s.now + 1#64, oamResumeCycle := s.now + 1#64
          alignOwed := true }) ∧
      (s.oam.phase = .pausedDuringRead →
        t.oam = { s.oam with phase := .reading } ∧ t.cl = { s.cl with
          dmcInactiveCycle := s.now + 1#64, oamResumeCycle := s.now + 1#64, alignOwed := true }) ∧
      (s.oam.phase = .pausedDuringWrite →
        t.oam = { s.oam with phase := .writing } ∧ t.cl = { s.cl with
          dmcInactiveCycle := s.now + 1#64, oamResumeCycle := s.now + 1#64, alignOwed := true }) ∧
      (s.oam.phase = .idle ∨ s.oam.phase = .aligning ∨ s.oam.phase = .completing →
        t.oam = s.oam ∧ t.cl = { s.cl with dmcInactiveCycle := s.now + 1#64 })

/-- 42_arbitration_tick.md section 4, the table of rule R129, which the spec derives: the phase after every
operation, in every state that meets the invariants of 10_state.md section 9. -/
def Obligations.PhaseTransitionTable : Prop :=
  ∀ (i : Instr) (s t : State), Inv s → exec i s = .next t →
    (i = .reset → t.oam.phase = .idle) ∧
    (∀ page, i = .oamTrig page false → t.oam.phase = .reading) ∧
    (∀ page, i = .oamTrig page true → t.oam.phase = .aligning) ∧
    ((∃ addr, i = .dmcTrig addr) ∨ (∃ addr, i = .cpuRd addr) ∨ i = .stRead ∨ (∃ en, i = .enWrite en) ∨
      i = .winStart ∨ i = .winEnd → t.oam.phase = s.oam.phase) ∧
    (i = .tick →
      (s.oam.phase = .idle → t.oam.phase = .idle) ∧
      (s.oam.phase = .aligning → t.oam.phase = if s.dmc.rdyLow then .aligning else .reading) ∧
      (s.oam.phase = .reading → t.oam.phase =
        if s.dmc.rdyLow then (if s.dmc.stallCyclesRemaining.val = 1 then .reading else .pausedDuringRead)
        else if s.cl.alignOwed then .reading else .writing) ∧
      (s.oam.phase = .writing → t.oam.phase =
        if s.dmc.rdyLow then (if s.dmc.stallCyclesRemaining.val = 1 then .writing else .pausedDuringWrite)
        else if s.cl.alignOwed then .writing
        else if s.oam.currentCycle.toNat < 511 then .reading else .completing) ∧
      (s.oam.phase = .pausedDuringRead → t.oam.phase =
        if s.dmc.stallCyclesRemaining.val = 1 then .reading else .pausedDuringRead) ∧
      (s.oam.phase = .pausedDuringWrite → t.oam.phase =
        if s.dmc.stallCyclesRemaining.val = 1 then .writing else .pausedDuringWrite) ∧
      (s.oam.phase = .completing → t.oam.phase = if s.dmc.rdyLow then .completing else .idle) ∧
      (s.dmc.rdyLow = true → s.dmc.stallCyclesRemaining.val = 1 →
        s.oam.phase = .reading ∨ s.oam.phase = .writing ∨ s.oam.phase.isPaused = true →
        t.cl.alignOwed = true))

/-- 42_arbitration_tick.md section 3, rule R127 (decision D31): `halt` is high exactly when the next tick has
an owner; only a trigger raises it; only `TICK` or `RESET` lets it fall, and a tick only by the completion
cycle or by the fetch cycle with no transfer in progress. -/
def Obligations.HaltRisesAndFalls : Prop :=
  (∀ s : State, halt s = true ↔ owner s ≠ .none) ∧
  (∀ (i : Instr) (s t : State), exec i s = .next t →
    (halt s = false → halt t = true → (∃ page odd, i = .oamTrig page odd) ∨ ∃ addr, i = .dmcTrig addr) ∧
    (halt s = true → halt t = false →
      i = .reset ∨
      (i = .tick ∧ s.dmc.rdyLow = false ∧ s.oam.phase = .completing) ∨
      (i = .tick ∧ s.dmc.rdyLow = true ∧ s.dmc.stallCyclesRemaining.val ≤ 1 ∧ s.oam.active = false)))

/-- 10_state.md section 2, rule R10 (decision D4): `now` counts the ticks since reset modulo 2^64, and no
other operation moves it. -/
def Obligations.TimeBaseCountsTicks : Prop :=
  ∀ (ops : List Instr) (s t : State), (∀ i ∈ ops, i ≠ .reset) → runOps ops s = .next t →
    t.now = s.now + BitVec.ofNat 64 (ops.count .tick)

/-! ### The buses -/

/-- 20_memory.md section 4, rules R44 and R45, which the spec derives: in every state that meets the
invariants, an operation issues no bus access or exactly one, only in a `TICK`, and then it is one of the
four sites under exactly that site's conditions. -/
def Obligations.BusAccessSites : Prop :=
  ∀ (i : Instr) (s t : State), Inv s → exec i s = .next t →
    t.env.busLog = s.env.busLog ∨
    (i = .tick ∧ ∃ a : BusAccess, t.env.busLog = s.env.busLog ++ [a] ∧
      ((owner s = .oam ∧ s.oam.phase = .reading ∧ s.cl.alignOwed = false ∧
          a = .read .bulkCopy t.now (s.oam.sourcePage ++ s.oam.currentOffset) t.oam.tempValue) ∨
       (owner s = .oam ∧ s.oam.phase = .writing ∧ s.cl.alignOwed = false ∧
          a = .write t.now s.env.destPtr s.oam.tempValue) ∨
       (owner s = .dmc ∧ s.dmc.stallCyclesRemaining.val = 1 ∧
          a = .read .sampleFetch t.now s.dmc.sampleAddress t.dmc.sampleByte) ∨
       (owner s = .dmc ∧ s.env.repeatReadRev = true ∧
          (s.dmc.stallCyclesRemaining.val = 3 ∨ s.dmc.stallCyclesRemaining.val = 2) ∧
          a = .read .repeatRead t.now s.dmc.lastReadAddress (mainByte s.env s.dmc.lastReadAddress))))

/-- 42_arbitration_tick.md section 5, rule R132, and 40_bulk_copy_dma.md section 3, rule R87 (P2 of
95_test_vectors.md): in a tick the sample-fetch engine owns, the bulk-copy engine makes no bus access and
keeps every field but the phase; both memories and the destination pointer keep every byte. -/
def Obligations.NoBulkAccessUnderStall : Prop :=
  ∀ s t : State, s.dmc.rdyLow = true → exec .tick s = .next t →
    bulkAccesses t.env.busLog = bulkAccesses s.env.busLog ∧
    t.oam.active = s.oam.active ∧ t.oam.sourcePage = s.oam.sourcePage ∧
    t.oam.currentOffset = s.oam.currentOffset ∧ t.oam.currentCycle = s.oam.currentCycle ∧
    t.oam.needsAlignment = s.oam.needsAlignment ∧ t.oam.tempValue = s.oam.tempValue ∧
    t.env.destPtr = s.env.destPtr ∧
    (∀ a : Nat, Memory.read t.env.main a = Memory.read s.env.main a) ∧
    (∀ a : Nat, Memory.read t.env.sec a = Memory.read s.env.sec a)

/-- Frame, 20_memory.md section 4 (rule R44, which the spec derives): the eight operations other than `TICK`
complete and touch neither bus: every byte of both memories, the pointer, the strap and the bus log are as
before, a read of main memory would return what it would have before, and the words waiting are untouched. -/
def Obligations.NonTickOperationsTouchNoBus : Prop :=
  ∀ (i : Instr) (s : State), i ≠ .tick → ∃ t, exec i s = .next t ∧
    t.env = s.env ∧ t.port.pending = s.port.pending ∧ (i ≠ .stRead → t.port.response = s.port.response) ∧
    (∀ a : Addr, mainByte t.env a = mainByte s.env a) ∧
    (∀ a : Nat, Memory.read t.env.sec a = Memory.read s.env.sec a) ∧
    (i ≠ .reset → t.now = s.now)

/-- Frame of `TICK` on memory (20_memory.md sections 2 to 4): main memory, the strap, the Interrupt Ledger
and the command port are never touched; the secondary memory changes at most at the destination pointer,
and that only in a bulk-copy write half-cycle. -/
def Obligations.TickMemoryFrame : Prop :=
  ∀ s t : State, exec .tick s = .next t →
    (∀ a : Nat, Memory.read t.env.main a = Memory.read s.env.main a) ∧
    t.env.repeatReadRev = s.env.repeatReadRev ∧ t.il = s.il ∧ t.port = s.port ∧
    t.dmc.sampleAddress = s.dmc.sampleAddress ∧ t.dmc.lastReadAddress = s.dmc.lastReadAddress ∧
    t.cl.dmcActiveCycle = s.cl.dmcActiveCycle ∧
    (∀ a : Nat, a ≠ s.env.destPtr.toNat → Memory.read t.env.sec a = Memory.read s.env.sec a) ∧
    (¬ (owner s = .oam ∧ s.cl.alignOwed = false ∧ s.oam.phase = .writing) →
      t.env.sec = s.env.sec ∧ t.env.destPtr = s.env.destPtr)

/-- 60_exceptions.md section 5, rule R188, and vector V-INT-10: deleting the four Interrupt Ledger operations
from any sequence changes nothing of the engines, the Conflict Ledger, the time base and the buses; deleting
the two triggers and the read reports changes nothing of the Interrupt Ledger and the time base. -/
def Obligations.LedgersAreIndependent : Prop :=
  (∀ (ops : List Instr) (s t u : State), runOps ops s = .next t →
    runOps (ops.filter (fun i => match i with
      | .winStart => false | .winEnd => false | .stRead => false | .enWrite _ => false
      | .tick => true | .oamTrig _ _ => true | .dmcTrig _ => true | .cpuRd _ => true | .reset => true)) s = .next u →
    u.oam = t.oam ∧ u.dmc = t.dmc ∧ u.cl = t.cl ∧ u.now = t.now ∧ u.env = t.env ∧ halt u = halt t) ∧
  (∀ (ops : List Instr) (s t u : State), runOps ops s = .next t →
    runOps (ops.filter (fun i => match i with
      | .oamTrig _ _ => false | .dmcTrig _ => false | .cpuRd _ => false
      | .winStart => true | .winEnd => true | .stRead => true | .enWrite _ => true
      | .tick => true | .reset => true)) s = .next u →
    u.il = t.il ∧ u.now = t.now ∧ intLine u = intLine t)

/-! ### Whole stalls and whole transfers -/

/-- 41_sample_fetch_dma.md section 3, rules R107, R108 and R105 (decisions D12 to D14): a trigger in any
state, also one already stalling, is followed by exactly four ticks of stall, all owned by the sample-fetch
engine, with the fetch at the new address in the fourth and, with the strap, two repeat reads in the second
and third, and no other sample-fetch access. -/
def Obligations.StallLastsExactlyFourTicks : Prop :=
  ∀ (addr : Addr) (s : State), ∃ σ : Nat → State,
    (∀ k, runOps (.dmcTrig addr :: List.replicate k .tick) s = .next (σ k)) ∧
    (∀ k, k < 4 → (σ k).dmc.rdyLow = true ∧ owner (σ k) = .dmc ∧ halt (σ k) = true) ∧
    (σ 4).dmc.rdyLow = false ∧
    (σ 1).env.busLog = s.env.busLog ∧
    (s.env.repeatReadRev = false → (σ 3).env.busLog = s.env.busLog) ∧
    (s.env.repeatReadRev = true → ∃ v2 v3 : Byte,
      (σ 2).env.busLog = s.env.busLog ++ [.read .repeatRead (s.now + 2#64) (σ 0).dmc.lastReadAddress v2] ∧
      (σ 3).env.busLog = (σ 2).env.busLog ++ [.read .repeatRead (s.now + 3#64) (σ 0).dmc.lastReadAddress v3]) ∧
    (σ 4).env.busLog = (σ 3).env.busLog ++ [.read .sampleFetch (s.now + 4#64) addr (σ 4).dmc.sampleByte] ∧
    (σ 4).dmc.sampleByte = mainByte (σ 3).env addr ∧
    (σ 0).dmc.lastReadAddress = s.dmc.lastReadAddress

/-- 42_arbitration_tick.md section 7, rules R133 and R134, which the spec derives (decisions D9, D10): what a
preemption costs a transfer in progress: five ticks from a half-cycle, four from `aligning` or `completing`,
and only four more from a half-cycle whose alignment was already owed, which is still owed, once. -/
def Obligations.PreemptionCost : Prop :=
  ∀ (addr : Addr) (s : State), s.dmc.rdyLow = false → s.oam.active = true → ∃ σ : Nat → State,
    (∀ k, runOps (.dmcTrig addr :: List.replicate k .tick) s = .next (σ k)) ∧
    (s.cl.alignOwed = false → (s.oam.phase = .reading ∨ s.oam.phase = .writing) →
      (σ 4).cl.alignOwed = true ∧ (σ 4).oam = s.oam ∧
      (σ 5).oam = s.oam ∧ (σ 5).cl.alignOwed = false ∧ (σ 5).dmc.rdyLow = false ∧
      bulkAccesses (σ 5).env.busLog = bulkAccesses s.env.busLog) ∧
    (s.cl.alignOwed = false → (s.oam.phase = .aligning ∨ s.oam.phase = .completing) →
      (σ 4).oam = s.oam ∧ (σ 4).cl.alignOwed = false ∧ (σ 4).dmc.rdyLow = false) ∧
    (s.cl.alignOwed = true → (s.oam.phase = .reading ∨ s.oam.phase = .writing) →
      (σ 4).oam = s.oam ∧ (σ 4).cl.alignOwed = true ∧ (σ 4).dmc.rdyLow = false ∧
      (σ 5).oam = s.oam ∧ (σ 5).cl.alignOwed = false)

/-- 70_reset_and_hazards.md section 3, rule R213, which the spec derives: sample fetches triggered every five
ticks hold a transfer, and `halt`, for ever. -/
def Obligations.FrequentFetchesStarveTransfer : Prop :=
  ∀ (addr : Addr) (s : State) (rounds : Nat), s.dmc.rdyLow = false → s.oam.active = true →
    s.cl.alignOwed = false → (s.oam.phase = .reading ∨ s.oam.phase = .writing) →
    ∃ t, runOps (List.replicate rounds (Instr.dmcTrig addr :: List.replicate 5 Instr.tick)).flatten s = .next t ∧
      t.oam = s.oam ∧ halt t = true ∧ bulkAccesses t.env.busLog = bulkAccesses s.env.busLog

/-- 40_bulk_copy_dma.md section 4, rule R88 (P1; decisions D5 and D6), which the spec derives: an
uninterrupted transfer, triggered in any state with no stall in progress, is active for exactly 513 or 514
ticks, reads and writes byte `i` in its own two ticks, and touches no bus in the startup wait or the
completion cycle. -/
def Obligations.UninterruptedTransferTiming : Prop :=
  ∀ (page : Byte) (odd : Bool) (s : State), s.dmc.rdyLow = false → ∃ σ : Nat → State,
    (∀ k, runOps (.oamTrig page odd :: List.replicate k .tick) s = .next (σ k)) ∧
    (∀ k, k < 513 + odd.toNat → (σ k).oam.active = true ∧ halt (σ k) = true) ∧
    (σ (513 + odd.toNat)).oam.active = false ∧ halt (σ (513 + odd.toNat)) = false ∧
    (∀ i : Nat, i < 256 → ∃ v : Byte,
      (σ (odd.toNat + 2 * i + 1)).env.busLog = (σ (odd.toNat + 2 * i)).env.busLog ++
        [.read .bulkCopy (s.now + BitVec.ofNat 64 (odd.toNat + 2 * i + 1)) (page ++ BitVec.ofNat 8 i) v] ∧
      (σ (odd.toNat + 2 * i + 2)).env.busLog = (σ (odd.toNat + 2 * i + 1)).env.busLog ++
        [.write (s.now + BitVec.ofNat 64 (odd.toNat + 2 * i + 2)) (s.env.destPtr + BitVec.ofNat 8 i) v]) ∧
    (σ odd.toNat).env.busLog = s.env.busLog ∧
    (σ (513 + odd.toNat)).env.busLog = (σ (512 + odd.toNat)).env.busLog

/-- NO_DUP_NO_SKIP, 42_arbitration_tick.md section 6, rule R131, and 40_bulk_copy_dma.md section 4, rule R90
(P3; decision D11): from a trigger in any state, under any operations that do not start or abandon a
transfer, the bulk-copy accesses so far are byte by byte one read at the next offset and one write of the
byte it returned, in ascending order, and a completed transfer has made all 256 pairs. -/
def Obligations.EveryByteCopiedExactlyOnce : Prop :=
  ∀ (page : Byte) (odd : Bool) (s t : State) (ops : List Instr), ops.all keepsTransfer = true →
    runOps (.oamTrig page odd :: ops) s = .next t →
    ∃ (bytes : List Byte) (log : List BusAccess), t.env.busLog = s.env.busLog ++ log ∧
      (t.oam.active = false →
        bytes.length = 256 ∧ copyActions log = copySequence page 0 s.env.destPtr bytes) ∧
      (t.oam.active = true → bytes.length = t.oam.currentCycle.toNat / 2 ∧
        t.oam.currentCycle.toNat ≤ 512 ∧
        copyActions log = copySequence page 0 s.env.destPtr bytes ++
          if t.oam.currentCycle.toNat % 2 = 1
          then [.readsFrom (page ++ t.oam.currentOffset) t.oam.tempValue] else [])

/-- Scenario A of 95_test_vectors.md for every destination pointer, page content and interleaving
(20_memory.md section 2, decision D16; 40_bulk_copy_dma.md section 4): once a transfer has completed, the
destination pointer is back where it started, and every byte of the source page whose content was known
stands at its place behind it. -/
def Obligations.CompletedTransferCopiesPage : Prop :=
  ∀ (page : Byte) (odd : Bool) (s t : State) (ops : List Instr),
    ops.all keepsTransfer = true → runOps (.oamTrig page odd :: ops) s = .next t → t.oam.active = false →
    t.env.destPtr = s.env.destPtr ∧
    ∀ i b : Byte, Memory.read s.env.main (page ++ i).toNat = some b →
      Memory.read t.env.sec (s.env.destPtr + i).toNat = some b

/-- 70_reset_and_hazards.md section 3, rule R216, which the spec derives: from every state that meets the
invariants, `halt` is low at the end of every sequence of operations that holds no trigger and at least 518
ticks, whatever else is interleaved; and it is low within 518 ticks if there is nothing else.
`RUN_UNTIL_IDLE` (30_encoding.md rule R70, decision D2), whose expansion the model bounds by 518 ticks (log
entry 17), then ends with `halt` low. -/
def Obligations.HaltFallsWithinBound : Prop :=
  ∀ s : State, Inv s →
    (∀ (ops : List Instr) (t : State), ops.all triggersNothing = true → 518 ≤ ops.count .tick →
      runOps ops s = .next t → halt t = false) ∧
    (∃ n t, n ≤ 518 ∧ runOps (List.replicate n .tick) s = .next t ∧ halt t = false) ∧
    (∃ t, runLines [.runUntilIdle] s = some (.next t) ∧ halt t = false)

/-! ### Invariants -/

/-- 10_state.md section 9, rules R35 (all), R36 (a), (b), (d) and R37, which the spec derives, and the
canonical form of both memories: kept by every step, whatever word is presented. -/
def Obligations.StepKeepsInvariants : Prop :=
  ∀ s t : State, Inv s → step s = .next t → Inv t

/-- 10_state.md section 9, rule R36 (c), with 42_arbitration_tick.md rule R128 and 43_interrupt_ledger.md rule
R160, which the spec derives: the stamps agree with the bits they record, and every step keeps that as long
as the time base does not wrap. -/
def Obligations.StepKeepsStampInvariant : Prop :=
  ∀ s t : State, StampInv s → s.now ≠ lastTick → step s = .next t → StampInv t

/-! ### The host's side -/

/-- 30_encoding.md section 4, rules R69 and R70 (decisions D2 and D5): what each of the nine forms and the three
pseudo-operations expands to, and that a line whose operand is out of range is an assembly error and
produces nothing. `OAM_START` takes the parity from the block's time base; `TICKS n` is `n` ticks;
`RUN_UNTIL_IDLE` is one tick for each time `halt` is found high, up to the 518 at which the model bounds it
(log entry 17). -/
def Obligations.TraceLinesExpand : Prop :=
  ∀ s : State,
    (∀ page odd : Nat, (expandLine (.oamTrig page odd) s).isSome = true ↔ page ≤ 255 ∧ odd ≤ 1) ∧
    (∀ addr : Nat, (expandLine (.dmcTrig addr) s).isSome = true ↔ addr ≤ 0xFFFF) ∧
    (∀ addr : Nat, (expandLine (.cpuRd addr) s).isSome = true ↔ addr ≤ 0xFFFF) ∧
    (∀ en : Nat, (expandLine (.enWrite en) s).isSome = true ↔ en ≤ 1) ∧
    (∀ page : Nat, (expandLine (.oamStart page) s).isSome = true ↔ page ≤ 255) ∧
    expandLine .tick s = some [.tick] ∧
    (∀ (page : Byte) (odd : Bool), expandLine (.oamTrig page.toNat odd.toNat) s = some [.oamTrig page odd]) ∧
    (∀ addr : Addr, expandLine (.dmcTrig addr.toNat) s = some [.dmcTrig addr]) ∧
    (∀ addr : Addr, expandLine (.cpuRd addr.toNat) s = some [.cpuRd addr]) ∧
    expandLine .stRead s = some [.stRead] ∧
    (∀ en : Bool, expandLine (.enWrite en.toNat) s = some [.enWrite en]) ∧
    expandLine .winStart s = some [.winStart] ∧
    expandLine .winEnd s = some [.winEnd] ∧
    expandLine .reset s = some [.reset] ∧
    (∀ n : Nat, expandLine (.ticks n) s = some (List.replicate n .tick)) ∧
    (∀ page : Byte, expandLine (.oamStart page.toNat) s = some [.oamTrig page (s.now.getLsbD 0)]) ∧
    ∃ n, n ≤ 518 ∧ expandLine .runUntilIdle s = some (List.replicate n .tick) ∧
      (∀ k, k < n → halt (ticks k s) = true) ∧ (n < 518 → halt (ticks n s) = false)

/-- 60_exceptions.md section 3, the orders that rule R184 compares (43_interrupt_ledger.md section 2 for the
status read): the two triggers, and a window start and an enable write, end in the same state in either
order; a read reported before a sample-fetch trigger is kept and one reported after it is not; a status read
after a window start answers 1 and leaves the flag clear, one before it answers the old flag, and the
window start then leaves the flag set. Each answer is read right after its status read. -/
def Obligations.OrderOfSimultaneousEvents : Prop :=
  (∀ (page : Byte) (odd : Bool) (addr : Addr) (s t t' : State),
    exec (.dmcTrig addr) s = .next t → exec (.oamTrig page odd) s = .next t' →
    exec (.oamTrig page odd) t = exec (.dmcTrig addr) t') ∧
  (∀ (en : Bool) (s t t' : State), exec .winStart s = .next t → exec (.enWrite en) s = .next t' →
    exec (.enWrite en) t = exec .winStart t') ∧
  (∀ (addr addr' : Addr) (s t t' : State), s.dmc.rdyLow = false →
    exec (.cpuRd addr) s = .next t → exec (.dmcTrig addr') s = .next t' →
    (∃ u, exec (.dmcTrig addr') t = .next u ∧ u.dmc.lastReadAddress = addr) ∧
    (∃ u, exec (.cpuRd addr) t' = .next u ∧ u.dmc.lastReadAddress = s.dmc.lastReadAddress)) ∧
  (∀ s t t' : State, exec .winStart s = .next t → exec .stRead s = .next t' →
    (∃ u, exec .stRead t = .next u ∧ u.port.response = some true ∧ u.il.flag = false) ∧
    t'.port.response = some s.il.flag ∧ ∃ u, exec .winStart t' = .next u ∧ u.il.flag = true)

/-- 60_exceptions.md sections 3 and 6, rules R184 and R190 (decision D21), with 70_reset_and_hazards.md section
3: in every order the host may put the events of a processor cycle in, the canonical one among them, the
cycle presents exactly one `TICK`, last; under `halt` it presents no operation of the processor; and no
operation of a cycle is a `RESET`. -/
def Obligations.CanonicalCycleHonoursHalt : Prop :=
  ∀ (e : CycleEvents) (s : State),
    IsHostCycle e s (canonicalCycle e s) ∧ IsHostCycle e s (listedCycle e s) ∧
    ∀ ops : List Instr, IsHostCycle e s ops →
      ops.count .tick = 1 ∧ ops.getLast? = some .tick ∧ Instr.reset ∉ ops ∧
      (halt s = true → ∀ i ∈ ops, i = .winStart ∨ i = .winEnd ∨ (∃ addr, i = .dmcTrig addr) ∨ i = .tick)

/-- 60_exceptions.md section 3, rule R184, by its decision D21: in the canonical cycle the processor's access
comes before the sample request, so a read that the processor makes in the cycle of a sample request is
kept as the last read address. In the order in which R184 lists its steps the report comes after the
request and is lost; nothing else differs between the two orders (the difference between the two texts is
log entry 10). -/
def Obligations.CanonicalCycleKeepsReadReport : Prop :=
  ∀ (e : CycleEvents) (s : State), ∃ t u : State,
    runOps (canonicalCycle e s) s = .next t ∧ runOps (listedCycle e s) s = .next u ∧
    u = { t with dmc := { t.dmc with lastReadAddress := u.dmc.lastReadAddress } } ∧
    (∀ addr : Addr, halt s = false → (e.access = some (.read addr) ∨ e.access = some (.statusRead addr)) →
      t.dmc.lastReadAddress = addr ∧
      u.dmc.lastReadAddress = if e.sampleRequest = none then addr else s.dmc.lastReadAddress) ∧
    ((halt s = true ∨ ∀ addr, e.access ≠ some (.read addr) ∧ e.access ≠ some (.statusRead addr)) →
      t.dmc.lastReadAddress = s.dmc.lastReadAddress ∧ u = t)
end

