-- ==== Sys2Proof/Laws/State.lean ====
section
/-! SUPPORT. One lemma for each part of the state under each setter, so that no later proof unfolds a
record update. -/

namespace Sys2Proof.Machine

@[simp] theorem State.setNow_now (s : State) (v : Stamp) : (s.setNow v).now = v := rfl
@[simp] theorem State.setNow_oam (s : State) (v : Stamp) : (s.setNow v).oam = s.oam := rfl
@[simp] theorem State.setNow_dmc (s : State) (v : Stamp) : (s.setNow v).dmc = s.dmc := rfl
@[simp] theorem State.setNow_cl (s : State) (v : Stamp) : (s.setNow v).cl = s.cl := rfl
@[simp] theorem State.setNow_il (s : State) (v : Stamp) : (s.setNow v).il = s.il := rfl
@[simp] theorem State.setNow_env (s : State) (v : Stamp) : (s.setNow v).env = s.env := rfl
@[simp] theorem State.setNow_port (s : State) (v : Stamp) : (s.setNow v).port = s.port := rfl
@[simp] theorem State.setNow_self (s : State) : s.setNow s.now = s := rfl
@[simp] theorem State.setNow_setNow (s : State) (v w : Stamp) : (s.setNow v).setNow w = s.setNow w := rfl

@[simp] theorem State.setOam_now (s : State) (v : Oam) : (s.setOam v).now = s.now := rfl
@[simp] theorem State.setOam_oam (s : State) (v : Oam) : (s.setOam v).oam = v := rfl
@[simp] theorem State.setOam_dmc (s : State) (v : Oam) : (s.setOam v).dmc = s.dmc := rfl
@[simp] theorem State.setOam_cl (s : State) (v : Oam) : (s.setOam v).cl = s.cl := rfl
@[simp] theorem State.setOam_il (s : State) (v : Oam) : (s.setOam v).il = s.il := rfl
@[simp] theorem State.setOam_env (s : State) (v : Oam) : (s.setOam v).env = s.env := rfl
@[simp] theorem State.setOam_port (s : State) (v : Oam) : (s.setOam v).port = s.port := rfl
@[simp] theorem State.setOam_self (s : State) : s.setOam s.oam = s := rfl
@[simp] theorem State.setOam_setOam (s : State) (v w : Oam) : (s.setOam v).setOam w = s.setOam w := rfl

@[simp] theorem State.setDmc_now (s : State) (v : Dmc) : (s.setDmc v).now = s.now := rfl
@[simp] theorem State.setDmc_oam (s : State) (v : Dmc) : (s.setDmc v).oam = s.oam := rfl
@[simp] theorem State.setDmc_dmc (s : State) (v : Dmc) : (s.setDmc v).dmc = v := rfl
@[simp] theorem State.setDmc_cl (s : State) (v : Dmc) : (s.setDmc v).cl = s.cl := rfl
@[simp] theorem State.setDmc_il (s : State) (v : Dmc) : (s.setDmc v).il = s.il := rfl
@[simp] theorem State.setDmc_env (s : State) (v : Dmc) : (s.setDmc v).env = s.env := rfl
@[simp] theorem State.setDmc_port (s : State) (v : Dmc) : (s.setDmc v).port = s.port := rfl
@[simp] theorem State.setDmc_self (s : State) : s.setDmc s.dmc = s := rfl
@[simp] theorem State.setDmc_setDmc (s : State) (v w : Dmc) : (s.setDmc v).setDmc w = s.setDmc w := rfl

@[simp] theorem State.setCl_now (s : State) (v : ConflictLedger) : (s.setCl v).now = s.now := rfl
@[simp] theorem State.setCl_oam (s : State) (v : ConflictLedger) : (s.setCl v).oam = s.oam := rfl
@[simp] theorem State.setCl_dmc (s : State) (v : ConflictLedger) : (s.setCl v).dmc = s.dmc := rfl
@[simp] theorem State.setCl_cl (s : State) (v : ConflictLedger) : (s.setCl v).cl = v := rfl
@[simp] theorem State.setCl_il (s : State) (v : ConflictLedger) : (s.setCl v).il = s.il := rfl
@[simp] theorem State.setCl_env (s : State) (v : ConflictLedger) : (s.setCl v).env = s.env := rfl
@[simp] theorem State.setCl_port (s : State) (v : ConflictLedger) : (s.setCl v).port = s.port := rfl
@[simp] theorem State.setCl_self (s : State) : s.setCl s.cl = s := rfl
@[simp] theorem State.setCl_setCl (s : State) (v w : ConflictLedger) : (s.setCl v).setCl w = s.setCl w := rfl

@[simp] theorem State.setIl_now (s : State) (v : InterruptLedger) : (s.setIl v).now = s.now := rfl
@[simp] theorem State.setIl_oam (s : State) (v : InterruptLedger) : (s.setIl v).oam = s.oam := rfl
@[simp] theorem State.setIl_dmc (s : State) (v : InterruptLedger) : (s.setIl v).dmc = s.dmc := rfl
@[simp] theorem State.setIl_cl (s : State) (v : InterruptLedger) : (s.setIl v).cl = s.cl := rfl
@[simp] theorem State.setIl_il (s : State) (v : InterruptLedger) : (s.setIl v).il = v := rfl
@[simp] theorem State.setIl_env (s : State) (v : InterruptLedger) : (s.setIl v).env = s.env := rfl
@[simp] theorem State.setIl_port (s : State) (v : InterruptLedger) : (s.setIl v).port = s.port := rfl
@[simp] theorem State.setIl_self (s : State) : s.setIl s.il = s := rfl
@[simp] theorem State.setIl_setIl (s : State) (v w : InterruptLedger) : (s.setIl v).setIl w = s.setIl w := rfl

@[simp] theorem State.setEnv_now (s : State) (v : Env) : (s.setEnv v).now = s.now := rfl
@[simp] theorem State.setEnv_oam (s : State) (v : Env) : (s.setEnv v).oam = s.oam := rfl
@[simp] theorem State.setEnv_dmc (s : State) (v : Env) : (s.setEnv v).dmc = s.dmc := rfl
@[simp] theorem State.setEnv_cl (s : State) (v : Env) : (s.setEnv v).cl = s.cl := rfl
@[simp] theorem State.setEnv_il (s : State) (v : Env) : (s.setEnv v).il = s.il := rfl
@[simp] theorem State.setEnv_env (s : State) (v : Env) : (s.setEnv v).env = v := rfl
@[simp] theorem State.setEnv_port (s : State) (v : Env) : (s.setEnv v).port = s.port := rfl
@[simp] theorem State.setEnv_self (s : State) : s.setEnv s.env = s := rfl
@[simp] theorem State.setEnv_setEnv (s : State) (v w : Env) : (s.setEnv v).setEnv w = s.setEnv w := rfl

@[simp] theorem State.setPort_now (s : State) (v : Port) : (s.setPort v).now = s.now := rfl
@[simp] theorem State.setPort_oam (s : State) (v : Port) : (s.setPort v).oam = s.oam := rfl
@[simp] theorem State.setPort_dmc (s : State) (v : Port) : (s.setPort v).dmc = s.dmc := rfl
@[simp] theorem State.setPort_cl (s : State) (v : Port) : (s.setPort v).cl = s.cl := rfl
@[simp] theorem State.setPort_il (s : State) (v : Port) : (s.setPort v).il = s.il := rfl
@[simp] theorem State.setPort_env (s : State) (v : Port) : (s.setPort v).env = s.env := rfl
@[simp] theorem State.setPort_port (s : State) (v : Port) : (s.setPort v).port = v := rfl
@[simp] theorem State.setPort_self (s : State) : s.setPort s.port = s := rfl
@[simp] theorem State.setPort_setPort (s : State) (v w : Port) : (s.setPort v).setPort w = s.setPort w := rfl

/-- Two states with the same seven parts are the same state. -/
theorem State.ext_parts {s t : State} (hn : s.now = t.now) (ho : s.oam = t.oam) (hd : s.dmc = t.dmc)
    (hc : s.cl = t.cl) (hi : s.il = t.il) (he : s.env = t.env) (hp : s.port = t.port) : s = t := by
  cases s; cases t; simp_all

end Sys2Proof.Machine
end

