-- ==== Sys2Proof/Laws/Memory.lean ====
section
/-! SUPPORT. The memory operations: read after write, and that the canonical form and the bounds of a
space are kept by every operation on a memory. -/

namespace Sys2Proof.Machine

@[simp] theorem Memory.read_nil (a : Nat) : Memory.read [] a = none := rfl

theorem Memory.read_write_same (m : Memory) (a : Nat) (b : Byte) :
    Memory.read (Memory.write m a b) a = some b := by
  induction m with
  | nil => simp [Memory.write, Memory.read]
  | cons c m ih =>
    obtain ⟨x, c⟩ := c
    unfold Memory.write
    split
    · simp [Memory.read]
    · split
      · simp [Memory.read]
      · rename_i h
        simp [Memory.read, Ne.symm h, ih]

theorem Memory.read_write_other (m : Memory) {a a' : Nat} (b : Byte) (h : a' ≠ a) :
    Memory.read (Memory.write m a b) a' = Memory.read m a' := by
  induction m with
  | nil => simp [Memory.write, Memory.read, h.symm]
  | cons c m ih =>
    obtain ⟨x, c⟩ := c
    unfold Memory.write
    split
    · simp [Memory.read, h.symm]
    · split
      · rename_i hx
        subst hx
        simp [Memory.read, h.symm]
      · simp [Memory.read, ih]

/-- A bound below every listed address of a memory stays below those of a write at or above it. -/
theorem Memory.all_lt_write {m : Memory} {x a : Nat} (b : Byte) (hm : m.all (fun c => x < c.1) = true)
    (ha : x < a) : (Memory.write m a b).all (fun c => x < c.1) = true := by
  induction m with
  | nil => simp [Memory.write, ha]
  | cons c m ih =>
    obtain ⟨y, c⟩ := c
    simp only [List.all_cons, Bool.and_eq_true, decide_eq_true_eq] at hm
    unfold Memory.write
    split
    · simp [ha, hm.1, hm.2]
    · split
      · simp [ha, hm.2]
      · simp [hm.1, ih hm.2]

/-- A write keeps the canonical form. -/
theorem Memory.write_wf {m : Memory} (a : Nat) (b : Byte) (h : Memory.wf m = true) :
    Memory.wf (Memory.write m a b) = true := by
  induction m with
  | nil => rfl
  | cons c m ih =>
    obtain ⟨x, c⟩ := c
    simp only [Memory.wf, Bool.and_eq_true] at h
    unfold Memory.write
    split
    · rename_i hlt
      have hall : m.all (fun c => a < c.1) = true := by
        simp only [List.all_eq_true, decide_eq_true_eq] at h ⊢
        exact fun y hy => Nat.lt_trans hlt (h.1 y hy)
      simp [Memory.wf, hlt, hall, h.1, h.2]
    · split
      · rename_i heq
        subst heq
        simp [Memory.wf, h.1, h.2]
      · rename_i hge hne
        have hlt : x < a := Nat.lt_of_le_of_ne (Nat.le_of_not_lt hge) (Ne.symm hne)
        simp [Memory.wf, Memory.all_lt_write b h.1 hlt, ih h.2]

/-- A write inside a space leaves every listed address inside it. -/
theorem Memory.write_within {m : Memory} {n a : Nat} (b : Byte) (h : Memory.within n m = true) (ha : a < n) :
    Memory.within n (Memory.write m a b) = true := by
  unfold Memory.within at h ⊢
  induction m with
  | nil => simp [Memory.write, ha]
  | cons c m ih =>
    obtain ⟨x, c⟩ := c
    simp only [List.all_cons, Bool.and_eq_true, decide_eq_true_eq] at h
    unfold Memory.write
    split
    · simp [ha, h.1, h.2]
    · split
      · simp [ha, h.2]
      · simp [h.1, ih h.2]

/-- The memories of the reset state are in canonical form. -/
theorem reset_memory_wf : Memory.wf State.reset.env.main = true ∧ Memory.wf State.reset.env.sec = true :=
  ⟨rfl, rfl⟩

/-- The two ways a memory of the state is written keep the canonical form: the block's `SecWrite`. -/
theorem secWrite_wf {s : State} (v : Byte) (h : Memory.wf s.env.sec = true) :
    Memory.wf (secWrite v s).env.sec = true := Memory.write_wf _ _ h

/-- The two ways a memory of the state is written keep the canonical form: the host's store. -/
theorem hostStore_wf {s : State} (addr : Addr) (b : Byte) (h : Memory.wf s.env.main = true) :
    Memory.wf (hostStore addr b s).env.main = true := Memory.write_wf _ _ h

theorem secWrite_within {s : State} (v : Byte) (h : Memory.within 256 s.env.sec = true) :
    Memory.within 256 (secWrite v s).env.sec = true := Memory.write_within _ h s.env.destPtr.isLt

theorem hostStore_within {s : State} (addr : Addr) (b : Byte) (h : Memory.within 65536 s.env.main = true) :
    Memory.within 65536 (hostStore addr b s).env.main = true := Memory.write_within _ h addr.isLt

end Sys2Proof.Machine
end

