-- ==== Sys2Proof/Laws/Ops.lean ====
section
/-! SUPPORT. What each shared operation can do, said once: the bus primitives, the pause and the resume,
the steps of the two engines and the tick; and what each leaves unchanged. -/

namespace Sys2Proof.Machine

/-! The bus primitives. -/

@[simp] theorem issueRead_now (r : ReadSite) (a : Addr) (s : State) : (issueRead r a s).now = s.now := rfl
@[simp] theorem issueRead_oam (r : ReadSite) (a : Addr) (s : State) : (issueRead r a s).oam = s.oam := rfl
@[simp] theorem issueRead_dmc (r : ReadSite) (a : Addr) (s : State) : (issueRead r a s).dmc = s.dmc := rfl
@[simp] theorem issueRead_cl (r : ReadSite) (a : Addr) (s : State) : (issueRead r a s).cl = s.cl := rfl
@[simp] theorem issueRead_il (r : ReadSite) (a : Addr) (s : State) : (issueRead r a s).il = s.il := rfl
@[simp] theorem issueRead_port (r : ReadSite) (a : Addr) (s : State) : (issueRead r a s).port = s.port := rfl
@[simp] theorem issueRead_env (r : ReadSite) (a : Addr) (s : State) : (issueRead r a s).env =
    { s.env with busLog := s.env.busLog ++ [.read r s.now a (mainByte s.env a)] } := rfl

@[simp] theorem secWrite_now (v : Byte) (s : State) : (secWrite v s).now = s.now := rfl
@[simp] theorem secWrite_oam (v : Byte) (s : State) : (secWrite v s).oam = s.oam := rfl
@[simp] theorem secWrite_dmc (v : Byte) (s : State) : (secWrite v s).dmc = s.dmc := rfl
@[simp] theorem secWrite_cl (v : Byte) (s : State) : (secWrite v s).cl = s.cl := rfl
@[simp] theorem secWrite_il (v : Byte) (s : State) : (secWrite v s).il = s.il := rfl
@[simp] theorem secWrite_port (v : Byte) (s : State) : (secWrite v s).port = s.port := rfl
@[simp] theorem secWrite_env (v : Byte) (s : State) : (secWrite v s).env =
    { s.env with
      sec := Memory.write s.env.sec s.env.destPtr.toNat v
      destPtr := s.env.destPtr + 1
      busLog := s.env.busLog ++ [.write s.now s.env.destPtr v] } := rfl

/-! Ownership. -/

theorem owner_cases (s : State) :
    (owner s = .dmc ∧ s.dmc.rdyLow = true) ∨
    (owner s = .oam ∧ s.dmc.rdyLow = false ∧ s.oam.active = true) ∨
    (owner s = .none ∧ s.dmc.rdyLow = false ∧ s.oam.active = false) := by
  unfold owner
  cases s.dmc.rdyLow <;> cases s.oam.active <;> simp

/-! Pause and resume. -/

/-- The phase a held engine is left in (42_arbitration_tick.md R123). -/
theorem pauseOam_cases (s : State) :
    (s.oam.phase = .reading ∧ pauseOam s = pauseInto .pausedDuringRead s) ∨
    (s.oam.phase = .writing ∧ pauseOam s = pauseInto .pausedDuringWrite s) ∨
    (s.oam.phase ≠ .reading ∧ s.oam.phase ≠ .writing ∧ pauseOam s = s) := by
  unfold pauseOam
  cases s.oam.phase <;> simp

/-- The phase a resumed engine is left in (42_arbitration_tick.md R124). -/
theorem resumeOam_cases (s : State) :
    (s.oam.phase = .pausedDuringRead ∧ resumeOam s = resumeInto .reading s) ∨
    (s.oam.phase = .pausedDuringWrite ∧ resumeOam s = resumeInto .writing s) ∨
    (s.oam.phase.isPaused = false ∧ resumeOam s = s) := by
  unfold resumeOam
  cases s.oam.phase <;> simp [Phase.isPaused]

/-- A pause touches only the phase and the pause stamp. -/
theorem pauseOam_frame (s : State) :
    (pauseOam s).now = s.now ∧ (pauseOam s).dmc = s.dmc ∧ (pauseOam s).il = s.il ∧
    (pauseOam s).env = s.env ∧ (pauseOam s).port = s.port ∧
    (pauseOam s).oam = { s.oam with phase := (pauseOam s).oam.phase } ∧
    (pauseOam s).cl = { s.cl with oamPauseCycle := (pauseOam s).cl.oamPauseCycle } := by
  rcases pauseOam_cases s with ⟨-, h⟩ | ⟨-, h⟩ | ⟨-, -, h⟩ <;> rw [h] <;> simp [pauseInto]

/-- A resume touches only the phase, the resume stamp and the owed alignment. -/
theorem resumeOam_frame (s : State) :
    (resumeOam s).now = s.now ∧ (resumeOam s).dmc = s.dmc ∧ (resumeOam s).il = s.il ∧
    (resumeOam s).env = s.env ∧ (resumeOam s).port = s.port ∧
    (resumeOam s).oam = { s.oam with phase := (resumeOam s).oam.phase } ∧
    (resumeOam s).cl = { s.cl with
      oamResumeCycle := (resumeOam s).cl.oamResumeCycle
      alignOwed := (resumeOam s).cl.alignOwed } := by
  rcases resumeOam_cases s with ⟨-, h⟩ | ⟨-, h⟩ | ⟨-, h⟩ <;> rw [h] <;> simp [resumeInto]

theorem holdOam_cases (s : State) :
    (s.oam.active = true ∧ holdOam s = pauseOam s) ∨ (s.oam.active = false ∧ holdOam s = s) := by
  unfold holdOam
  cases s.oam.active <;> simp

@[simp] theorem holdOam_now (s : State) : (holdOam s).now = s.now := by
  rcases holdOam_cases s with ⟨-, h⟩ | ⟨-, h⟩ <;> rw [h]; exact (pauseOam_frame s).1
@[simp] theorem holdOam_dmc (s : State) : (holdOam s).dmc = s.dmc := by
  rcases holdOam_cases s with ⟨-, h⟩ | ⟨-, h⟩ <;> rw [h]; exact (pauseOam_frame s).2.1
@[simp] theorem holdOam_il (s : State) : (holdOam s).il = s.il := by
  rcases holdOam_cases s with ⟨-, h⟩ | ⟨-, h⟩ <;> rw [h]; exact (pauseOam_frame s).2.2.1
@[simp] theorem holdOam_env (s : State) : (holdOam s).env = s.env := by
  rcases holdOam_cases s with ⟨-, h⟩ | ⟨-, h⟩ <;> rw [h]; exact (pauseOam_frame s).2.2.2.1
@[simp] theorem holdOam_port (s : State) : (holdOam s).port = s.port := by
  rcases holdOam_cases s with ⟨-, h⟩ | ⟨-, h⟩ <;> rw [h]; exact (pauseOam_frame s).2.2.2.2.1

theorem resumeIfEnded_cases (s : State) :
    (s.dmc.rdyLow = true ∧ resumeIfEnded s = s) ∨ (s.dmc.rdyLow = false ∧ resumeIfEnded s = resumeOam s) := by
  unfold resumeIfEnded
  cases s.dmc.rdyLow <;> simp

/-! The engines' steps. -/

/-- The five cases of the bulk-copy step, and the phases in which it does nothing (40_bulk_copy_dma.md R81). -/
theorem oamStep_cases (s : State) :
    (s.cl.alignOwed = true ∧ oamStep s = resumeAlign s) ∨
    (s.cl.alignOwed = false ∧ s.oam.phase = .aligning ∧ oamStep s = startupAlign s) ∨
    (s.cl.alignOwed = false ∧ s.oam.phase = .reading ∧ oamStep s = readHalf s) ∨
    (s.cl.alignOwed = false ∧ s.oam.phase = .writing ∧ oamStep s = writeHalf s) ∨
    (s.cl.alignOwed = false ∧ s.oam.phase = .completing ∧ oamStep s = complete s) ∨
    (s.cl.alignOwed = false ∧ (s.oam.phase = .idle ∨ s.oam.phase.isPaused = true) ∧ oamStep s = s) := by
  unfold oamStep
  cases s.cl.alignOwed <;> cases s.oam.phase <;> simp [Phase.isPaused]

/-- The three cases of the sample-fetch step (41_sample_fetch_dma.md R102). -/
theorem dmcStep_cases (s : State) :
    (s.dmc.stallCyclesRemaining.val ≤ 1 ∧ dmcStep s = fetchCycle s) ∨
    (2 ≤ s.dmc.stallCyclesRemaining.val ∧ s.env.repeatReadRev = true ∧
      s.dmc.stallCyclesRemaining.val ≤ 3 ∧ dmcStep s = repeatRead (countStall s)) ∨
    (2 ≤ s.dmc.stallCyclesRemaining.val ∧
      (s.env.repeatReadRev = false ∨ s.dmc.stallCyclesRemaining.val = 4) ∧ dmcStep s = countStall s) := by
  unfold dmcStep stallCycle
  generalize s.dmc.stallCyclesRemaining = r
  cases s.env.repeatReadRev <;> fin_cases r <;>
    simp [isRepeatCycle, stallCycleNumber, stallPred, Config.stallLen]

/-- No bulk-copy step touches the sample-fetch record, the time base, the Interrupt Ledger, the command
port, the strap, the main memory or a stamp (42_arbitration_tick.md R125). -/
theorem oamStep_frame (s : State) :
    (oamStep s).now = s.now ∧ (oamStep s).dmc = s.dmc ∧ (oamStep s).il = s.il ∧ (oamStep s).port = s.port ∧
    (oamStep s).env.main = s.env.main ∧ (oamStep s).env.repeatReadRev = s.env.repeatReadRev ∧
    (oamStep s).cl = { s.cl with alignOwed := false } := by
  have key : ∀ c : ConflictLedger, c.alignOwed = false → c = { c with alignOwed := false } := by
    intro c h; cases c; simp_all
  rcases oamStep_cases s with ⟨-, h⟩ | ⟨ho, -, h⟩ | ⟨ho, -, h⟩ | ⟨ho, -, h⟩ | ⟨ho, -, h⟩ | ⟨ho, -, h⟩ <;> rw [h] <;>
    simp [resumeAlign, startupAlign, readHalf, writeHalf, complete] <;> exact key _ ho

/-- No sample-fetch step touches the bulk-copy record, the time base, the Interrupt Ledger, the command
port, a memory, the pointer or the strap (42_arbitration_tick.md R132). -/
theorem dmcStep_frame (s : State) :
    (dmcStep s).now = s.now ∧ (dmcStep s).oam = s.oam ∧ (dmcStep s).il = s.il ∧ (dmcStep s).port = s.port ∧
    (dmcStep s).env.main = s.env.main ∧ (dmcStep s).env.sec = s.env.sec ∧
    (dmcStep s).env.destPtr = s.env.destPtr ∧ (dmcStep s).env.repeatReadRev = s.env.repeatReadRev ∧
    (dmcStep s).cl = { s.cl with dmcInactiveCycle := (dmcStep s).cl.dmcInactiveCycle } := by
  rcases dmcStep_cases s with ⟨-, h⟩ | ⟨-, -, -, h⟩ | ⟨-, -, h⟩ <;> rw [h] <;>
    simp [fetchCycle, repeatRead, countStall]

/-! The tick. -/

/-- What a tick is, by its owner (42_arbitration_tick.md R120). -/
theorem tick_cases (s : State) :
    (s.dmc.rdyLow = true ∧ tick s = dmcTick (s.setNow (s.now + 1#64))) ∨
    (s.dmc.rdyLow = false ∧ s.oam.active = true ∧ tick s = oamStep (s.setNow (s.now + 1#64))) ∨
    (s.dmc.rdyLow = false ∧ s.oam.active = false ∧ tick s = s.setNow (s.now + 1#64)) := by
  unfold tick
  rcases owner_cases s with ⟨h, h1⟩ | ⟨h, h1, h2⟩ | ⟨h, h1, h2⟩
  · simp [h, h1]
  · simp [h, h1, h2]
  · simp [h, h1, h2]

/-- The three kinds of stall tick: the fetch, a repeat read, and a bare count (42_arbitration_tick.md R122,
41_sample_fetch_dma.md R102). -/
theorem dmcTick_cases {s : State} (hr : s.dmc.rdyLow = true) :
    (s.dmc.stallCyclesRemaining.val ≤ 1 ∧ dmcTick s = resumeOam (fetchCycle (holdOam s))) ∨
    (2 ≤ s.dmc.stallCyclesRemaining.val ∧ s.env.repeatReadRev = true ∧
      s.dmc.stallCyclesRemaining.val ≤ 3 ∧ dmcTick s = repeatRead (countStall (holdOam s))) ∨
    (2 ≤ s.dmc.stallCyclesRemaining.val ∧
      (s.env.repeatReadRev = false ∨ s.dmc.stallCyclesRemaining.val = 4) ∧
      dmcTick s = countStall (holdOam s)) := by
  have h := dmcStep_cases (holdOam s)
  rw [holdOam_dmc, holdOam_env] at h
  unfold dmcTick
  rcases h with ⟨h1, h⟩ | ⟨h1, h2, h3, h⟩ | ⟨h1, h2, h⟩ <;> rw [h]
  · exact .inl ⟨h1, by simp [resumeIfEnded, fetchCycle]⟩
  · exact .inr (.inl ⟨h1, h2, h3, by simp [resumeIfEnded, repeatRead, countStall, hr]⟩)
  · exact .inr (.inr ⟨h1, h2, by simp [resumeIfEnded, countStall, hr]⟩)

/-- A tick owned by the sample-fetch engine, part by part. -/
theorem dmcTick_frame (s : State) :
    (dmcTick s).now = s.now ∧ (dmcTick s).il = s.il ∧ (dmcTick s).port = s.port ∧
    (dmcTick s).env.main = s.env.main ∧ (dmcTick s).env.sec = s.env.sec ∧
    (dmcTick s).env.destPtr = s.env.destPtr ∧ (dmcTick s).env.repeatReadRev = s.env.repeatReadRev ∧
    (dmcTick s).oam = { s.oam with phase := (dmcTick s).oam.phase } := by
  have hp : (holdOam s).now = s.now ∧ (holdOam s).il = s.il ∧ (holdOam s).env = s.env ∧
      (holdOam s).port = s.port ∧ (holdOam s).oam = { s.oam with phase := (holdOam s).oam.phase } := by
    obtain ⟨h1, -, h3, h4, h5, h6, -⟩ := pauseOam_frame s
    rcases holdOam_cases s with ⟨-, h⟩ | ⟨-, h⟩ <;> rw [h]
    · exact ⟨h1, h3, h4, h5, h6⟩
    · exact ⟨rfl, rfl, rfl, rfl, rfl⟩
  have hd := dmcStep_frame (holdOam s)
  have hr : (dmcTick s).now = (dmcStep (holdOam s)).now ∧ (dmcTick s).il = (dmcStep (holdOam s)).il ∧
      (dmcTick s).env = (dmcStep (holdOam s)).env ∧ (dmcTick s).port = (dmcStep (holdOam s)).port ∧
      (dmcTick s).oam = { (dmcStep (holdOam s)).oam with phase := (dmcTick s).oam.phase } := by
    obtain ⟨h1, -, h3, h4, h5, h6, -⟩ := resumeOam_frame (dmcStep (holdOam s))
    unfold dmcTick
    rcases resumeIfEnded_cases (dmcStep (holdOam s)) with ⟨-, h⟩ | ⟨-, h⟩ <;> rw [h]
    · exact ⟨rfl, rfl, rfl, rfl, rfl⟩
    · exact ⟨h1, h3, h4, h5, h6⟩
  obtain ⟨p1, p2, p3, p4, p5⟩ := hp
  obtain ⟨d1, d2, d3, d4, d5, d6, d7, d8, -⟩ := hd
  obtain ⟨r1, r2, r3, r4, r5⟩ := hr
  refine ⟨by rw [r1, d1, p1], by rw [r2, d3, p2], by rw [r4, d4, p4], by rw [r3, d5, p3],
    by rw [r3, d6, p3], by rw [r3, d7, p3], by rw [r3, d8, p3], ?_⟩
  rw [r5, d2, p5]

/-- What no tick touches: the Interrupt Ledger (43_interrupt_ledger.md R160), the command port, the main
memory and the strap. -/
theorem tick_frame (s : State) :
    (tick s).now = s.now + 1#64 ∧ (tick s).il = s.il ∧ (tick s).port = s.port ∧
    (tick s).env.main = s.env.main ∧ (tick s).env.repeatReadRev = s.env.repeatReadRev := by
  rcases tick_cases s with ⟨-, h⟩ | ⟨-, -, h⟩ | ⟨-, -, h⟩ <;> rw [h]
  · obtain ⟨h1, h2, h3, h4, -, -, h5, -⟩ := dmcTick_frame (s.setNow (s.now + 1#64))
    exact ⟨h1, h2, h3, h4, h5⟩
  · obtain ⟨h1, -, h2, h3, h4, h5, -⟩ := oamStep_frame (s.setNow (s.now + 1#64))
    exact ⟨h1, h2, h3, h4, h5⟩
  · simp

@[simp] theorem tick_now (s : State) : (tick s).now = s.now + 1#64 := (tick_frame s).1
@[simp] theorem tick_il (s : State) : (tick s).il = s.il := (tick_frame s).2.1
@[simp] theorem tick_port (s : State) : (tick s).port = s.port := (tick_frame s).2.2.1
@[simp] theorem tick_main (s : State) : (tick s).env.main = s.env.main := (tick_frame s).2.2.2.1
@[simp] theorem tick_strap (s : State) : (tick s).env.repeatReadRev = s.env.repeatReadRev :=
  (tick_frame s).2.2.2.2

/-! Setting and clearing bits. -/

@[simp] theorem recomputeLine_line (l : InterruptLedger) : (recomputeLine l).line = (l.flag && l.enable) := rfl
@[simp] theorem recomputeLine_flag (l : InterruptLedger) : (recomputeLine l).flag = l.flag := rfl
@[simp] theorem recomputeLine_spanActive (l : InterruptLedger) :
    (recomputeLine l).spanActive = l.spanActive := rfl
@[simp] theorem recomputeLine_enable (l : InterruptLedger) : (recomputeLine l).enable = l.enable := rfl

/-- Clearing the flag: flag and line 0, the clear stamp taken only if the flag was 1, the rest kept. -/
theorem clearFlag_spec (now : Stamp) (l : InterruptLedger) :
    clearFlag now l = { l with
      flag := false
      line := false
      lastClearCycle := if l.flag then now else l.lastClearCycle } := by
  simp [clearFlag, recomputeLine]

/-! What each operation but `TICK` leaves alone. -/

@[simp] theorem startCopy_now (page : Byte) (odd : Bool) (s : State) : (startCopy page odd s).now = s.now := rfl
@[simp] theorem startCopy_dmc (page : Byte) (odd : Bool) (s : State) : (startCopy page odd s).dmc = s.dmc := rfl
@[simp] theorem startCopy_il (page : Byte) (odd : Bool) (s : State) : (startCopy page odd s).il = s.il := rfl
@[simp] theorem startCopy_env (page : Byte) (odd : Bool) (s : State) : (startCopy page odd s).env = s.env := rfl
@[simp] theorem startCopy_port (page : Byte) (odd : Bool) (s : State) : (startCopy page odd s).port = s.port := rfl

@[simp] theorem startFetch_now (addr : Addr) (s : State) : (startFetch addr s).now = s.now := rfl
@[simp] theorem startFetch_oam (addr : Addr) (s : State) : (startFetch addr s).oam = s.oam := rfl
@[simp] theorem startFetch_il (addr : Addr) (s : State) : (startFetch addr s).il = s.il := rfl
@[simp] theorem startFetch_env (addr : Addr) (s : State) : (startFetch addr s).env = s.env := rfl
@[simp] theorem startFetch_port (addr : Addr) (s : State) : (startFetch addr s).port = s.port := rfl

theorem reportRead_cases (addr : Addr) (s : State) :
    (s.dmc.rdyLow = true ∧ reportRead addr s = s) ∨
    (s.dmc.rdyLow = false ∧ reportRead addr s = s.setDmc { s.dmc with lastReadAddress := addr }) := by
  unfold reportRead
  cases h : s.dmc.rdyLow <;> simp [h]

@[simp] theorem reportRead_now (addr : Addr) (s : State) : (reportRead addr s).now = s.now := by
  rcases reportRead_cases addr s with ⟨-, h⟩ | ⟨-, h⟩ <;> rw [h]; rfl
@[simp] theorem reportRead_oam (addr : Addr) (s : State) : (reportRead addr s).oam = s.oam := by
  rcases reportRead_cases addr s with ⟨-, h⟩ | ⟨-, h⟩ <;> rw [h]; rfl
@[simp] theorem reportRead_cl (addr : Addr) (s : State) : (reportRead addr s).cl = s.cl := by
  rcases reportRead_cases addr s with ⟨-, h⟩ | ⟨-, h⟩ <;> rw [h]; rfl
@[simp] theorem reportRead_il (addr : Addr) (s : State) : (reportRead addr s).il = s.il := by
  rcases reportRead_cases addr s with ⟨-, h⟩ | ⟨-, h⟩ <;> rw [h]; rfl
@[simp] theorem reportRead_env (addr : Addr) (s : State) : (reportRead addr s).env = s.env := by
  rcases reportRead_cases addr s with ⟨-, h⟩ | ⟨-, h⟩ <;> rw [h]; rfl
@[simp] theorem reportRead_port (addr : Addr) (s : State) : (reportRead addr s).port = s.port := by
  rcases reportRead_cases addr s with ⟨-, h⟩ | ⟨-, h⟩ <;> rw [h]; rfl

@[simp] theorem readStatus_now (s : State) : (readStatus s).now = s.now := rfl
@[simp] theorem readStatus_oam (s : State) : (readStatus s).oam = s.oam := rfl
@[simp] theorem readStatus_dmc (s : State) : (readStatus s).dmc = s.dmc := rfl
@[simp] theorem readStatus_cl (s : State) : (readStatus s).cl = s.cl := rfl
@[simp] theorem readStatus_env (s : State) : (readStatus s).env = s.env := rfl

@[simp] theorem writeEnable_now (en : Bool) (s : State) : (writeEnable en s).now = s.now := rfl
@[simp] theorem writeEnable_oam (en : Bool) (s : State) : (writeEnable en s).oam = s.oam := rfl
@[simp] theorem writeEnable_dmc (en : Bool) (s : State) : (writeEnable en s).dmc = s.dmc := rfl
@[simp] theorem writeEnable_cl (en : Bool) (s : State) : (writeEnable en s).cl = s.cl := rfl
@[simp] theorem writeEnable_env (en : Bool) (s : State) : (writeEnable en s).env = s.env := rfl
@[simp] theorem writeEnable_port (en : Bool) (s : State) : (writeEnable en s).port = s.port := rfl

@[simp] theorem windowStart_now (s : State) : (windowStart s).now = s.now := rfl
@[simp] theorem windowStart_oam (s : State) : (windowStart s).oam = s.oam := rfl
@[simp] theorem windowStart_dmc (s : State) : (windowStart s).dmc = s.dmc := rfl
@[simp] theorem windowStart_cl (s : State) : (windowStart s).cl = s.cl := rfl
@[simp] theorem windowStart_env (s : State) : (windowStart s).env = s.env := rfl
@[simp] theorem windowStart_port (s : State) : (windowStart s).port = s.port := rfl

@[simp] theorem windowEnd_now (s : State) : (windowEnd s).now = s.now := rfl
@[simp] theorem windowEnd_oam (s : State) : (windowEnd s).oam = s.oam := rfl
@[simp] theorem windowEnd_dmc (s : State) : (windowEnd s).dmc = s.dmc := rfl
@[simp] theorem windowEnd_cl (s : State) : (windowEnd s).cl = s.cl := rfl
@[simp] theorem windowEnd_env (s : State) : (windowEnd s).env = s.env := rfl
@[simp] theorem windowEnd_port (s : State) : (windowEnd s).port = s.port := rfl

@[simp] theorem resetBlock_env (s : State) : (resetBlock s).env = s.env := rfl
@[simp] theorem resetBlock_port (s : State) : (resetBlock s).port = s.port := rfl

theorem Phase.ofCode_code (p : Phase) : Phase.ofCode p.code = p := by cases p <;> rfl

theorem Phase.code_ne_seven (p : Phase) : p.code ≠ 7 := by cases p <;> decide

end Sys2Proof.Machine
end

