-- ==== Sys2Proof/Laws/Commute.lean ====
section
/-! SUPPORT. The engines look neither at the command port nor at the Interrupt Ledger: a tick commutes with
setting either (00_scope.md R3, 43_interrupt_ledger.md R160). -/

namespace Sys2Proof.Machine

theorem pauseOam_setPort (s : State) (v : Port) : pauseOam (s.setPort v) = (pauseOam s).setPort v := by
  simp only [pauseOam, State.setPort_oam]
  split <;> rfl

theorem resumeOam_setPort (s : State) (v : Port) : resumeOam (s.setPort v) = (resumeOam s).setPort v := by
  simp only [resumeOam, State.setPort_oam]
  split <;> rfl

theorem oamStep_setPort (s : State) (v : Port) : oamStep (s.setPort v) = (oamStep s).setPort v := by
  cases ho : s.cl.alignOwed <;> cases hp : s.oam.phase <;> simp [oamStep, ho, hp] <;> rfl

theorem dmcStep_setPort (s : State) (v : Port) : dmcStep (s.setPort v) = (dmcStep s).setPort v := by
  by_cases h : s.dmc.stallCyclesRemaining.val ≤ 1
  · simp [dmcStep, h]; rfl
  · cases hr : s.env.repeatReadRev <;>
      cases hk : isRepeatCycle (stallCycleNumber (stallPred s.dmc.stallCyclesRemaining)) <;>
      simp [dmcStep, stallCycle, h, hr, hk] <;> rfl

theorem holdOam_setPort (s : State) (v : Port) : holdOam (s.setPort v) = (holdOam s).setPort v := by
  simp only [holdOam, State.setPort_oam, pauseOam_setPort]
  split <;> rfl

theorem resumeIfEnded_setPort (s : State) (v : Port) :
    resumeIfEnded (s.setPort v) = (resumeIfEnded s).setPort v := by
  simp only [resumeIfEnded, State.setPort_dmc, resumeOam_setPort]
  split <;> rfl

theorem tick_setPort (s : State) (v : Port) : tick (s.setPort v) = (tick s).setPort v := by
  have hn : (s.setPort v).setNow (s.now + 1#64) = (s.setNow (s.now + 1#64)).setPort v := rfl
  have ho : owner (s.setPort v) = owner s := rfl
  simp only [tick, ho, State.setPort_now, hn, dmcTick, holdOam_setPort, dmcStep_setPort, resumeIfEnded_setPort,
    oamStep_setPort]
  split <;> rfl

theorem pauseOam_setIl (s : State) (v : InterruptLedger) : pauseOam (s.setIl v) = (pauseOam s).setIl v := by
  simp only [pauseOam, State.setIl_oam]
  split <;> rfl

theorem resumeOam_setIl (s : State) (v : InterruptLedger) : resumeOam (s.setIl v) = (resumeOam s).setIl v := by
  simp only [resumeOam, State.setIl_oam]
  split <;> rfl

theorem oamStep_setIl (s : State) (v : InterruptLedger) : oamStep (s.setIl v) = (oamStep s).setIl v := by
  cases ho : s.cl.alignOwed <;> cases hp : s.oam.phase <;> simp [oamStep, ho, hp] <;> rfl

theorem dmcStep_setIl (s : State) (v : InterruptLedger) : dmcStep (s.setIl v) = (dmcStep s).setIl v := by
  by_cases h : s.dmc.stallCyclesRemaining.val ≤ 1
  · simp [dmcStep, h]; rfl
  · cases hr : s.env.repeatReadRev <;>
      cases hk : isRepeatCycle (stallCycleNumber (stallPred s.dmc.stallCyclesRemaining)) <;>
      simp [dmcStep, stallCycle, h, hr, hk] <;> rfl

theorem holdOam_setIl (s : State) (v : InterruptLedger) : holdOam (s.setIl v) = (holdOam s).setIl v := by
  simp only [holdOam, State.setIl_oam, pauseOam_setIl]
  split <;> rfl

theorem resumeIfEnded_setIl (s : State) (v : InterruptLedger) :
    resumeIfEnded (s.setIl v) = (resumeIfEnded s).setIl v := by
  simp only [resumeIfEnded, State.setIl_dmc, resumeOam_setIl]
  split <;> rfl

theorem tick_setIl (s : State) (v : InterruptLedger) : tick (s.setIl v) = (tick s).setIl v := by
  have hn : (s.setIl v).setNow (s.now + 1#64) = (s.setNow (s.now + 1#64)).setIl v := rfl
  have ho : owner (s.setIl v) = owner s := rfl
  simp only [tick, ho, State.setIl_now, hn, dmcTick, holdOam_setIl, dmcStep_setIl, resumeIfEnded_setIl,
    oamStep_setIl]
  split <;> rfl

end Sys2Proof.Machine
end

