-- ==== Sys2Proof/Laws/Encode.lean ====
section
/-! SUPPORT. The fields of a packed command word, and the byte order of a word on a byte carrier. -/

namespace Sys2Proof

theorem packWord_opField (op : BitVec 4) (odd : Bool) (arg : BitVec 16) : opField (packWord op odd arg) = op := by
  apply BitVec.eq_of_getLsbD_eq
  intro i hi
  simp only [opField, packWord]
  interval_cases i <;> simp

theorem packWord_addrField (op : BitVec 4) (odd : Bool) (arg : BitVec 16) :
    addrField (packWord op odd arg) = arg := by
  apply BitVec.eq_of_getLsbD_eq
  intro i hi
  simp only [addrField, packWord]
  interval_cases i <;> simp

theorem packWord_oddField (op : BitVec 4) (odd : Bool) (arg : BitVec 16) :
    oddField (packWord op odd arg) = odd := by
  cases odd <;> simp [oddField, packWord]

/-- The must-be-zero field `z1` of a packed word is zero (30_encoding.md R60). -/
theorem packWord_z1 (op : BitVec 4) (odd : Bool) (arg : BitVec 16) :
    (packWord op odd arg).extractLsb' 17 11 = 0#11 := by
  apply BitVec.eq_of_getLsbD_eq
  intro i hi
  simp only [packWord]
  interval_cases i <;> cases odd <;> simp

/-- The bytes of a word, put back together, are the word (30_encoding.md R72). -/
theorem wordOfBytes_bytes (w : CmdWord) :
    wordOfBytes (w.extractLsb' 0 8) (w.extractLsb' 8 8) (w.extractLsb' 16 8) (w.extractLsb' 24 8) = w := by
  apply BitVec.eq_of_getLsbD_eq
  intro i hi
  have h : ∀ b0 b1 b2 b3 : Byte, (wordOfBytes b0 b1 b2 b3).getLsbD i =
      (b3 ++ b2 ++ b1 ++ b0 : BitVec (8 + 8 + 8 + 8)).getLsbD i := fun _ _ _ _ => rfl
  rw [h]
  simp only [BitVec.getLsbD_append, BitVec.getLsbD_extractLsb']
  interval_cases i <;> simp

/-- The types of the operands are exactly their ranges (30_encoding.md R69). -/
theorem Instr.wellFormed_all (i : Instr) : i.wellFormed = true := by
  cases i with
  | tick => rfl
  | oamTrig page odd =>
    have := page.isLt
    cases odd <;> simp [Instr.wellFormed, pageInRange, bitInRange] <;> omega
  | dmcTrig addr =>
    have := addr.isLt
    simp [Instr.wellFormed, addrInRange]; omega
  | cpuRd addr =>
    have := addr.isLt
    simp [Instr.wellFormed, addrInRange]; omega
  | stRead => rfl
  | enWrite en => cases en <;> rfl
  | winStart => rfl
  | winEnd => rfl
  | reset => rfl

end Sys2Proof
end

