-- ==== Sys2Proof/Laws/PerInstr.lean ====
section
/-! SUPPORT. Statements made once for each operation. Family `EncodedWord`: the word an operation encodes
to is hit by the operation's own row of the opcode map, has the row's `op` in bits 31:28, and has its
`z1` field zero (30_encoding.md R60, R65). -/

namespace Sys2Proof.Laws.EncodedWord

/-- The encoded word belongs to the operation's own row. -/
def Statement (i : Instr) : Prop :=
  i.row.hits (encode i) = true ∧ opField (encode i) = opField i.row.pattern ∧
    (encode i).extractLsb' 17 11 = 0#11

theorem tick : Statement .tick := by unfold Statement; decide

theorem oamTrig (page : Byte) (odd : Bool) : Statement (.oamTrig page odd) := by
  refine ⟨?_, (packWord_opField _ _ _).trans (by simp only [Instr.row, rowOamTrig]; decide), packWord_z1 _ _ _⟩
  simp only [OpcodeRow.hits, beq_iff_eq, Instr.row, rowOamTrig, encode, packWord]
  apply BitVec.eq_of_getLsbD_eq
  intro i hi
  interval_cases i <;> cases odd <;> simp

theorem dmcTrig (addr : Addr) : Statement (.dmcTrig addr) := by
  refine ⟨?_, (packWord_opField _ _ _).trans (by simp only [Instr.row, rowDmcTrig]; decide), packWord_z1 _ _ _⟩
  simp only [OpcodeRow.hits, beq_iff_eq, Instr.row, rowDmcTrig, encode, packWord]
  apply BitVec.eq_of_getLsbD_eq
  intro i hi
  interval_cases i <;> simp

theorem cpuRd (addr : Addr) : Statement (.cpuRd addr) := by
  refine ⟨?_, (packWord_opField _ _ _).trans (by simp only [Instr.row, rowCpuRd]; decide), packWord_z1 _ _ _⟩
  simp only [OpcodeRow.hits, beq_iff_eq, Instr.row, rowCpuRd, encode, packWord]
  apply BitVec.eq_of_getLsbD_eq
  intro i hi
  interval_cases i <;> simp

theorem stRead : Statement .stRead := by unfold Statement; decide

theorem enWrite (en : Bool) : Statement (.enWrite en) := by
  cases en <;> (unfold Statement; decide)

theorem winStart : Statement .winStart := by unfold Statement; decide

theorem winEnd : Statement .winEnd := by unfold Statement; decide

theorem reset : Statement .reset := by unfold Statement; decide

end Sys2Proof.Laws.EncodedWord
end

