-- ==== Sys2Proof/Laws/Step.lean ====
section
/-! SUPPORT. The step, `exec` and sequences of operations. -/

namespace Sys2Proof.Machine

@[simp] theorem withdrawResponse_now (s : State) : (withdrawResponse s).now = s.now := rfl
@[simp] theorem withdrawResponse_oam (s : State) : (withdrawResponse s).oam = s.oam := rfl
@[simp] theorem withdrawResponse_dmc (s : State) : (withdrawResponse s).dmc = s.dmc := rfl
@[simp] theorem withdrawResponse_cl (s : State) : (withdrawResponse s).cl = s.cl := rfl
@[simp] theorem withdrawResponse_il (s : State) : (withdrawResponse s).il = s.il := rfl
@[simp] theorem withdrawResponse_env (s : State) : (withdrawResponse s).env = s.env := rfl
@[simp] theorem withdrawResponse_port (s : State) :
    (withdrawResponse s).port = { s.port with response := none } := rfl

@[simp] theorem takeWord_now (s : State) : (takeWord s).now = s.now := rfl
@[simp] theorem takeWord_oam (s : State) : (takeWord s).oam = s.oam := rfl
@[simp] theorem takeWord_dmc (s : State) : (takeWord s).dmc = s.dmc := rfl
@[simp] theorem takeWord_cl (s : State) : (takeWord s).cl = s.cl := rfl
@[simp] theorem takeWord_il (s : State) : (takeWord s).il = s.il := rfl
@[simp] theorem takeWord_env (s : State) : (takeWord s).env = s.env := rfl
@[simp] theorem takeWord_port (s : State) :
    (takeWord s).port = { pending := s.port.pending.tail, response := none } := rfl

@[simp] theorem presentedWord_presentWord (w : CmdWord) (s : State) : presentedWord (presentWord w s) = w := rfl

@[simp] theorem takeWord_presentWord (w : CmdWord) (s : State) :
    takeWord (presentWord w s) = withdrawResponse s := rfl

/-- An idle port presents `TICK`. -/
theorem presentedWord_idle {s : State} (h : s.port.pending = []) : presentedWord s = idleWord := by
  simp [presentedWord, h]

/-- A step answers a next state only by performing the operation its word spells. -/
theorem step_next_inversion {s t : State} (h : step s = .next t) :
    ∃ i, decodeWord (presentedWord s) = .ok i ∧ exec i (takeWord s) = .next t := by
  unfold step at h
  split at h
  · rename_i i hi
    exact ⟨i, hi, h⟩
  · cases h

/-- The state each operation leaves. -/
theorem exec_tick (s : State) : exec .tick s = .next (tick s) := rfl
theorem exec_oamTrig (page : Byte) (odd : Bool) (s : State) :
    exec (.oamTrig page odd) s = .next (startCopy page odd s) := rfl
theorem exec_dmcTrig (addr : Addr) (s : State) : exec (.dmcTrig addr) s = .next (startFetch addr s) := rfl
theorem exec_cpuRd (addr : Addr) (s : State) : exec (.cpuRd addr) s = .next (reportRead addr s) := rfl
theorem exec_stRead (s : State) : exec .stRead s = .next (readStatus s) := rfl
theorem exec_enWrite (en : Bool) (s : State) : exec (.enWrite en) s = .next (writeEnable en s) := rfl
theorem exec_winStart (s : State) : exec .winStart s = .next (windowStart s) := rfl
theorem exec_winEnd (s : State) : exec .winEnd s = .next (windowEnd s) := rfl
theorem exec_reset (s : State) : exec .reset s = .next (resetBlock s) := rfl

@[simp] theorem runOps_nil (s : State) : runOps [] s = .next s := rfl

/-- One operation of a sequence, and then the rest. -/
theorem runOps_cons_next {i : Instr} {s t : State} (is : List Instr) (h : exec i (withdrawResponse s) = .next t) :
    runOps (i :: is) s = runOps is t := by simp [runOps, h]

/-- A property that every operation keeps holds after every sequence of operations. -/
theorem runOps_induction {P : State → Prop} (hw : ∀ s, P s → P (withdrawResponse s))
    (hstep : ∀ i s t, P s → exec i s = .next t → P t) :
    ∀ (ops : List Instr) (s t : State), P s → runOps ops s = .next t → P t := by
  intro ops
  induction ops with
  | nil => intro s t hs h; cases h; exact hs
  | cons i is ih =>
    intro s t hs h
    unfold runOps at h
    split at h
    · rename_i u hu
      exact ih u t (hstep i _ u (hw s hs) hu) h
    · cases h
    · cases h

@[simp] theorem ticks_zero (s : State) : ticks 0 s = s := rfl
@[simp] theorem ticks_succ (n : Nat) (s : State) : ticks (n + 1) s = ticks n (tick s) := rfl

/-- `TICKS n` is `n` ticks (30_encoding.md R70). -/
theorem runOps_replicate_tick (n : Nat) (s : State) (h : s.port.response = none) :
    runOps (List.replicate n .tick) s = .next (ticks n s) := by
  induction n generalizing s with
  | zero => rfl
  | succ n ih =>
    have hw : withdrawResponse s = s := by
      cases s; rename_i p; cases p; simp_all [withdrawResponse, State.setPort]
    rw [List.replicate_succ, runOps_cons_next _ (exec_tick _), hw, ticks_succ]
    refine ih _ ?_
    rw [tick_port, h]

theorem ticks_add (m n : Nat) (s : State) : ticks (m + n) s = ticks n (ticks m s) := by
  induction m generalizing s with
  | zero => simp
  | succ m ih => rw [Nat.succ_add]; simp [ih]

end Sys2Proof.Machine
end

