-- ==== Sys2Proof/Tests/Slice0.lean ====
section
/-! SUPPORT. Tests of single words, lines and steps, with expected results from 30_encoding.md section 5 and
95_test_vectors.md, and one witness theorem for each hypothesis set of the obligations. -/

namespace Sys2Proof.Tests

open Sys2Proof Sys2Proof.Machine

/-! ### Words (30_encoding.md section 5; 95_test_vectors.md V-ENC) -/

theorem test_decode_tick : decodeWord 0x00000000#32 = .ok .tick := by decide
theorem test_decode_oamTrig : decodeWord 0x10010002#32 = .ok (.oamTrig 0x02#8 true) := by decide
theorem test_decode_oamTrig_even : decodeWord 0x100000FF#32 = .ok (.oamTrig 0xFF#8 false) := by decide
theorem test_decode_dmcTrig : decodeWord 0x2000C000#32 = .ok (.dmcTrig 0xC000#16) := by decide
theorem test_decode_dmcTrig_top : decodeWord 0x2000FFFF#32 = .ok (.dmcTrig 0xFFFF#16) := by decide
theorem test_decode_cpuRd : decodeWord 0x30004016#32 = .ok (.cpuRd 0x4016#16) := by decide
theorem test_decode_stRead : decodeWord 0x40000000#32 = .ok .stRead := by decide
theorem test_decode_enWrite : decodeWord 0x50000001#32 = .ok (.enWrite true) := by decide
theorem test_decode_enWrite_zero : decodeWord 0x50000000#32 = .ok (.enWrite false) := by decide
theorem test_decode_winStart : decodeWord 0x60000000#32 = .ok .winStart := by decide
theorem test_decode_winEnd : decodeWord 0x70000000#32 = .ok .winEnd := by decide
theorem test_decode_reset : decodeWord 0xF0000000#32 = .ok .reset := by decide

/-- V-ENC-10. -/
theorem test_reserved_ops_refused :
    [0x80000000#32, 0x90000000#32, 0xA0000000#32, 0xB0000000#32, 0xC0000000#32, 0xD0000000#32,
      0xE0000000#32].map decodeWord =
    [0x8#4, 0x9#4, 0xA#4, 0xB#4, 0xC#4, 0xD#4, 0xE#4].map (fun op => .error (.reservedOp op)) := by decide

/-- V-ENC-11 to V-ENC-16. -/
theorem test_must_be_zero_refused :
    [0x00000001#32, 0x10000102#32, 0x50000002#32, 0x20010000#32, 0x10020002#32, 0xF0000001#32].map decodeWord =
    [0x0#4, 0x1#4, 0x5#4, 0x2#4, 0x1#4, 0xF#4].map (fun op => .error (.mustBeZero op)) := by decide

/-- V-ENC-17, and a carrier that ends inside a word. -/
theorem test_bytes_little_endian :
    decodeBytes [0x02#8, 0x00#8, 0x01#8, 0x10#8, 0xAA#8] = .ok (.oamTrig 0x02#8 true, [0xAA#8]) := by decide
theorem test_short_word : decodeBytes [0x02#8, 0x00#8, 0x01#8] = .error .shortWord := by decide

theorem test_encode_worked_words :
    [Instr.tick, .oamTrig 0x02#8 false, .oamTrig 0x02#8 true, .oamTrig 0xFF#8 true, .dmcTrig 0xC000#16,
      .cpuRd 0x4016#16, .stRead, .enWrite true, .enWrite false, .winStart, .winEnd, .reset].map encode =
    [0x00000000#32, 0x10000002#32, 0x10010002#32, 0x100100FF#32, 0x2000C000#32, 0x30004016#32, 0x40000000#32,
      0x50000001#32, 0x50000000#32, 0x60000000#32, 0x70000000#32, 0xF0000000#32] := by decide

theorem test_decodeTableWord : decodeTableWord 32 0x2000C000 = some (.dmcTrig 0xC000#16) := by decide
theorem test_decodeTableWord_illegal : decodeTableWord 32 0x80000000 = none := by decide

/-! ### Well-formedness of written lines (30_encoding.md R69): one ill-formed term per check -/

theorem test_wellFormed_page : (TraceLine.oamTrig 256 0).wellFormed = false := by decide
theorem test_wellFormed_odd : (TraceLine.oamTrig 255 2).wellFormed = false := by decide
theorem test_wellFormed_dmc_addr : (TraceLine.dmcTrig 65536).wellFormed = false := by decide
theorem test_wellFormed_read_addr : (TraceLine.cpuRd 65536).wellFormed = false := by decide
theorem test_wellFormed_enable : (TraceLine.enWrite 2).wellFormed = false := by decide
theorem test_wellFormed_start_page : (TraceLine.oamStart 256).wellFormed = false := by decide
theorem test_wellFormed_boundaries : (TraceLine.oamTrig 255 1).wellFormed = true ∧
    (TraceLine.dmcTrig 65535).wellFormed = true ∧ (TraceLine.enWrite 1).wellFormed = true := by decide

/-- A trace with a comment, a blank line, both number forms and a pseudo-operation. -/
theorem test_assemble : assemble "RESET\n\nOAM_TRIG 0x02, 1 ; odd start\n  TICKS 200\nRUN_UNTIL_IDLE" =
    .ok [.reset, .oamTrig 2 1, .ticks 200, .runUntilIdle] := by decide +kernel

theorem test_assemble_out_of_range : assemble "EN_WRITE 2" = .error .outOfRange := by decide +kernel

/-! ### The states of the tests -/

/-- A bulk-copy engine of page 2 in a given phase, at the end of tick 200. -/
def copying (phase : Phase) (cycle : BitVec 16) (offset : Byte) : State :=
  { State.reset with
    now := 200#64
    oam := { active := true, sourcePage := 0x02#8, currentOffset := offset, currentCycle := cycle,
             needsAlignment := phase == .aligning, tempValue := 0x63#8, phase := phase }
    cl := { ConflictLedger.reset with oamPauseCycle := if phase.isPaused then 150#64 else 0#64 }
    env := { Env.initial with
      main := [(0x0264, 0x64#8), (0x02FF, 0xFF#8), (0x4016, 0x41#8), (0xC000, 0x5A#8)]
      sec := [(99, 0x63#8)], destPtr := 100#8 } }

/-- A sample fetch of 0xC000 in progress, with a given count and strap. -/
def stalled (r : Fin 5) (strap : Bool) (s : State) : State :=
  { s with
    dmc := { rdyLow := true, stallCyclesRemaining := r, sampleAddress := 0xC000#16, sampleByte := 0x11#8,
             lastReadAddress := 0x4016#16 }
    cl := { s.cl with dmcActiveCycle := 140#64 }
    env := { s.env with repeatReadRev := strap } }

/-- An alignment cycle is owed. -/
def owing (s : State) : State := { s with cl := { s.cl with alignOwed := true, oamResumeCycle := 200#64 } }

/-- A ledger of the Interrupt Ledger's four bits at tick 13. -/
def windowed (flag span enable line : Bool) : State :=
  { State.reset with
    now := 13#64
    il := { InterruptLedger.reset with flag := flag, spanActive := span, enable := enable, line := line } }

/-- The state after one operation. -/
def after (i : Instr) (s : State) : State :=
  match exec i s with
  | .next t => t
  | .fault _ => s
  | .refused _ => s

/-! ### One step of each operation (95_test_vectors.md) -/

/-- V-ARB-1, tick 204: the fetch, then the resume. -/
theorem test_tick_fetch_and_resume :
    let t := after .tick { stalled 1 true (copying .pausedDuringRead 200#16 100#8) with now := 203#64 }
    t.dmc.sampleByte = 0x5A#8 ∧ t.dmc.rdyLow = false ∧ t.oam.phase = .reading ∧ t.cl.oamResumeCycle = 204#64 ∧
      t.cl.alignOwed = true ∧ t.cl.dmcInactiveCycle = 204#64 ∧
      t.env.busLog = [.read .sampleFetch 204#64 0xC000#16 0x5A#8] := by decide

/-- V-OAM-4, tick 512: the last write of a transfer, at the wrap of offset and pointer. -/
theorem test_tick_last_write :
    let s := copying .writing 511#16 255#8
    let t := after .tick { s with now := 511#64, env := { s.env with destPtr := 0xFF#8 } }
    t.oam.phase = .completing ∧ t.oam.currentCycle = 512#16 ∧ t.oam.currentOffset = 0#8 ∧
      t.env.destPtr = 0x00#8 ∧ t.env.busLog = [.write 512#64 0xFF#8 0x63#8] ∧ halt t = true := by decide

/-- V-ARB-8: a trigger while paused stamps the resume and leaves the stall alone. -/
theorem test_oamTrig_while_paused :
    let t := after (.oamTrig 0x03#8 false) (stalled 2 false (copying .pausedDuringRead 10#16 5#8))
    t.oam.phase = .reading ∧ t.oam.sourcePage = 0x03#8 ∧ t.oam.currentOffset = 0#8 ∧
      t.cl.oamResumeCycle = 200#64 ∧ t.dmc.stallCyclesRemaining = 2 := by decide

/-- V-OAM-5: odd start, no tick needed. -/
theorem test_oamTrig_odd :
    let t := after (.oamTrig 0x7F#8 true) State.reset
    t.oam.phase = .aligning ∧ t.oam.needsAlignment = true ∧ halt t = true ∧ t.env.busLog = [] := by decide

/-- V-DMC-3: a second trigger restarts the count and takes no stamp. -/
theorem test_dmcTrig_again :
    let t := after (.dmcTrig 0xC100#16) (stalled 2 false (copying .aligning 0#16 0#8))
    t.dmc.stallCyclesRemaining = 4 ∧ t.dmc.sampleAddress = 0xC100#16 ∧ t.cl.dmcActiveCycle = 140#64 := by decide

/-- V-DMC-1. -/
theorem test_dmcTrig : (after (.dmcTrig 0xC000#16) (copying .reading 0#16 0#8)).cl.dmcActiveCycle = 200#64 := by
  decide

/-- V-DMC-4. -/
theorem test_cpuRd_ignored :
    (after (.cpuRd 0x5678#16) (stalled 4 false State.reset)).dmc.lastReadAddress = 0x4016#16 := by decide
theorem test_cpuRd_kept : (after (.cpuRd 0x9ABC#16) State.reset).dmc.lastReadAddress = 0x9ABC#16 := by decide

/-- V-INT-3, the first read. -/
theorem test_stRead_set :
    let t := after .stRead (windowed true true true true)
    t.port.response = some true ∧ t.il.flag = false ∧ t.il.line = false ∧ t.il.spanActive = true ∧
      t.il.lastClearCycle = 13#64 ∧ t.il.lastReadCycle = 13#64 := by decide

/-- V-INT-7: a read with no flag stamps the read only. -/
theorem test_stRead_clear :
    let t := after .stRead (windowed false false false false)
    t.port.response = some false ∧ t.il.lastReadCycle = 13#64 ∧ t.il.lastClearCycle = 0#64 := by decide

/-- Scenario D, V-INT-2. -/
theorem test_enWrite_flag_set : (after (.enWrite true) (windowed true true false false)).il.line = true := by decide

/-- Scenario C, V-INT-1. -/
theorem test_enWrite_flag_clear : (after (.enWrite true) (windowed false true false false)).il.line = false := by
  decide

/-- V-INT-6: a second window start. -/
theorem test_winStart_again :
    let t := after .winStart (windowed false true true false)
    t.il.flag = true ∧ t.il.line = true ∧ t.il.lastSetCycle = 13#64 := by decide

/-- V-SYS-3: a window start with the enable bit 0. -/
theorem test_winStart_disabled :
    let t := after .winStart State.reset
    t.il.flag = true ∧ t.il.spanActive = true ∧ t.il.line = false := by decide

/-- V-INT-5. -/
theorem test_winEnd :
    let t := after .winEnd (windowed true true true true)
    t.il.flag = false ∧ t.il.spanActive = false ∧ t.il.line = false ∧ t.il.lastClearCycle = 13#64 := by decide

/-- V-INT-7: `WIN_END` with no window changes nothing. -/
theorem test_winEnd_no_window :
    after .winEnd (windowed false false true false) = windowed false false true false := by decide

/-- V-SYS-1: the block's fields are 0, its surroundings as they were. -/
theorem test_reset_mid_transfer :
    let s := stalled 2 true (copying .pausedDuringRead 200#16 100#8)
    after .reset s = { State.reset with env := s.env } := by decide

/-- 30_encoding.md R65: a placed word is the one the next step performs. -/
theorem test_step_withFetchWord :
    step (State.reset.withFetchWord 32 0x60000000) = exec .winStart State.reset := rfl
theorem test_step_illegal :
    step (State.reset.withFetchWord 32 0x80000000) = .refused (.spellsNoOperation (.reservedOp 0x8#4)) := rfl

/-- V-TICK-1: an idle port clocks the block. -/
theorem test_step_idle : step State.reset = .next { State.reset with now := 1#64 } := rfl

/-! ### The canonical form of memories -/

theorem test_memory_ill_formed : Memory.wf [(5, 1#8), (5, 2#8)] = false := by decide
theorem test_memory_out_of_space : Memory.within 256 [(256, 0#8)] = false := by decide

/-! ### Witnesses of hypotheses -/

theorem witness_DecodeEncodeRoundTrip : decodeWord 0x3000FFFF#32 = .ok (.cpuRd 0xFFFF#16) := by decide

theorem witness_IllegalWordsAreRefused_reserved_low :
    decodeWord 0x8FFFFFFF#32 = .error (.reservedOp 0x8#4) := by decide
theorem witness_IllegalWordsAreRefused_reserved_high :
    decodeWord 0xE0000000#32 = .error (.reservedOp 0xE#4) := by decide
theorem witness_IllegalWordsAreRefused_must_be_zero :
    decodeWord 0x18000000#32 = .error (.mustBeZero 0x1#4) := by decide
theorem witness_IllegalWordsAreRefused_step :
    ∃ (s : State) (w : CmdWord) (ws : List CmdWord) (r : Reject),
      s.port.pending = w :: ws ∧ decodeWord w = .error r :=
  ⟨State.reset.withFetchWord 32 0xF8000000, 0xF8000000#32, [], .mustBeZero 0xF#4, rfl, by decide⟩

theorem witness_OpcodeRowsDisjoint :
    rowOamTrig ∈ opcodeMap ∧ rowOamTrig.hits 0x100100FF#32 = true := by decide

theorem witness_StepPerformsDecodedOperation :
    (State.reset.withFetchWord 32 0x50000001).port.pending = [0x50000001#32] ∧
    decodeWord 0x50000001#32 = .ok (.enWrite true) := by decide
theorem witness_StepPerformsDecodedOperation_idle : State.reset.port.pending = [] := rfl

/-- Two states that differ in what they must be allowed to differ in. -/
theorem witness_OutcomeDependsOnlyOnBlockAndAnswers :
    let s := copying .writing 201#16 100#8
    let s' := { s with
      env := { s.env with destPtr := 0xFF#8, sec := [] }
      port := { pending := [0x40000000#32], response := some true } }
    (s.env.destPtr ≠ s'.env.destPtr ∧ s.env.sec ≠ s'.env.sec ∧ s.port ≠ s'.port) ∧
      (s.now = s'.now ∧ s.oam = s'.oam ∧ s.dmc = s'.dmc ∧ s.cl = s'.cl ∧ s.il = s'.il) ∧
      s.env.repeatReadRev = s'.env.repeatReadRev ∧ (∀ a : Addr, mainByte s.env a = mainByte s'.env a) ∧
      (∃ t, exec .tick s = .next t) ∧ ∃ t', exec .tick s' = .next t' :=
  ⟨by decide, ⟨rfl, rfl, rfl, rfl, rfl⟩, rfl, fun _ => rfl, ⟨_, rfl⟩, ⟨_, rfl⟩⟩
/-- And with the same pointer and contents. -/
theorem witness_OutcomeDependsOnlyOnBlockAndAnswers_same_memory :
    let s := copying .writing 511#16 255#8
    let s' := { s with port := { pending := [0x40000000#32], response := some true } }
    s ≠ s' ∧ s.env.destPtr = s'.env.destPtr ∧ s.env.sec = s'.env.sec ∧
      ∀ a : Addr, mainByte s.env a = mainByte s'.env a :=
  ⟨by decide, rfl, rfl, fun _ => rfl⟩

theorem witness_ReadReportKeepsAddress :
    State.reset.dmc.rdyLow = false ∧ (stalled 4 false State.reset).dmc.rdyLow = true := by decide

theorem witness_EnableWriteRecomputesLine_set :
    (windowed true true false false).il.flag = true ∧
    (∃ u, exec (.enWrite false) (windowed true true true true) = .next u) := ⟨rfl, _, rfl⟩
theorem witness_EnableWriteRecomputesLine_same :
    let s := windowed true true true true
    s.il.line = (s.il.flag && s.il.enable) ∧ true = s.il.enable := by decide
theorem witness_EnableWriteRecomputesLine_clear : (windowed false true true false).il.flag = false := rfl

theorem witness_SecondStatusReadHasNoEffect :
    ∃ s t u : State, s.il.flag = true ∧ exec .stRead s = .next t ∧ exec .stRead t = .next u :=
  ⟨windowed true true true true, _, _, rfl, rfl, rfl⟩

theorem witness_WindowStateTable_s0 :
    windowState (windowed false false true false).il = some .s0 ∧
    ∃ t, exec .stRead (windowed false false true false) = .next t := ⟨rfl, _, rfl⟩
theorem witness_WindowStateTable_s1 :
    windowState (windowed true true true true).il = some .s1 ∧
    (∃ t, exec .stRead (windowed true true true true) = .next t) ∧
    (∃ t, exec .winEnd (windowed true true true true) = .next t) ∧
    ∃ t, exec .tick (windowed true true true true) = .next t := ⟨rfl, ⟨_, rfl⟩, ⟨_, rfl⟩, ⟨_, rfl⟩⟩
theorem witness_WindowStateTable_s2 :
    windowState (windowed false true true false).il = some .s2 ∧
    (∃ t, exec .winStart (windowed false true true false) = .next t) ∧
    ∃ t, exec .reset (windowed false true true false) = .next t := ⟨rfl, ⟨_, rfl⟩, ⟨_, rfl⟩⟩

theorem witness_LineIsFlagAndEnable :
    let s := windowed true true true true
    s.il.line = (s.il.flag && s.il.enable) ∧ (∃ t, exec (.enWrite false) s = .next t) ∧
      ∃ t, exec (.cpuRd 0xFFFF#16) s = .next t := ⟨rfl, ⟨_, rfl⟩, ⟨_, rfl⟩⟩

/-- Both kinds of rising edge occur. -/
theorem witness_RisingEdgesOfInterruptLine_window :
    let s := windowed false false true false
    s.il.line = (s.il.flag && s.il.enable) ∧ intLine s = false ∧
      ∃ t, exec .winStart s = .next t ∧ intLine t = true := ⟨rfl, rfl, _, rfl, rfl⟩
theorem witness_RisingEdgesOfInterruptLine_enable :
    let s := windowed true true false false
    s.il.line = (s.il.flag && s.il.enable) ∧ intLine s = false ∧
      ∃ t, exec (.enWrite true) s = .next t ∧ intLine t = true := ⟨rfl, rfl, _, rfl, rfl⟩

theorem witness_NoInterruptBeforeNextWindow :
    let s := windowed false true true false
    s.il.flag = false ∧ s.il.line = false ∧ (∀ i ∈ [Instr.stRead, .enWrite true], i ≠ .winStart) ∧
      ∃ t, runOps [.stRead, .enWrite true] s = .next t := ⟨rfl, rfl, by decide, _, rfl⟩

theorem witness_UnownedTickOnlyCounts : State.reset.dmc.rdyLow = false ∧ State.reset.oam.active = false := by
  decide

theorem witness_SampleFetchOwnsContestedCycle :
    (stalled 4 false (copying .reading 0#16 0#8)).dmc.rdyLow = true ∧
    ((copying .reading 0#16 0#8).dmc.rdyLow = false ∧ (copying .reading 0#16 0#8).oam.active = true) ∧
    (State.reset.dmc.rdyLow = false ∧ State.reset.oam.active = false) := by decide

theorem witness_AlignmentCyclesTouchNoBus_owed :
    let s := owing (copying .writing 511#16 255#8)
    s.dmc.rdyLow = false ∧ s.oam.active = true ∧ s.cl.alignOwed = true := by decide
theorem witness_AlignmentCyclesTouchNoBus_startup :
    let s := copying .aligning 0#16 0#8
    s.dmc.rdyLow = false ∧ s.oam.active = true ∧ s.cl.alignOwed = false ∧ s.oam.phase = .aligning := by decide

/-- The last read of a transfer, of a byte the state lists. -/
theorem witness_ReadHalfReadsOneByte :
    let s := copying .reading 510#16 255#8
    s.dmc.rdyLow = false ∧ s.oam.active = true ∧ s.cl.alignOwed = false ∧ s.oam.phase = .reading ∧
      mainByte s.env (s.oam.sourcePage ++ s.oam.currentOffset) = 0xFF#8 := by decide

theorem witness_WriteHalfWritesOneByte_first :
    let s := copying .writing 1#16 0#8
    s.dmc.rdyLow = false ∧ s.oam.active = true ∧ s.cl.alignOwed = false ∧ s.oam.phase = .writing := by decide
theorem witness_WriteHalfWritesOneByte_last :
    let s := copying .writing 511#16 255#8
    s.dmc.rdyLow = false ∧ s.oam.active = true ∧ s.cl.alignOwed = false ∧ s.oam.phase = .writing ∧
      s.oam.currentCycle = 511#16 := by decide

theorem witness_CompletionCycleResetsEngine :
    let s := copying .completing 512#16 0#8
    s.dmc.rdyLow = false ∧ s.oam.active = true ∧ s.cl.alignOwed = false ∧ s.oam.phase = .completing ∧
      ∃ t, exec .tick s = .next t := ⟨rfl, rfl, rfl, rfl, _, rfl⟩

theorem witness_StallCycleCountsAndHolds_first :
    let s := stalled 4 true (copying .reading 200#16 100#8)
    s.dmc.rdyLow = true ∧ 2 ≤ s.dmc.stallCyclesRemaining.val ∧ s.dmc.stallCyclesRemaining.val = 4 ∧
      s.oam.active = true ∧ s.oam.phase = .reading := by decide
theorem witness_StallCycleCountsAndHolds_repeat :
    let s := stalled 3 true (copying .writing 201#16 100#8)
    s.dmc.rdyLow = true ∧ 2 ≤ s.dmc.stallCyclesRemaining.val ∧ s.env.repeatReadRev = true ∧
      s.dmc.stallCyclesRemaining.val ≤ 3 ∧ s.oam.active = true ∧ s.oam.phase = .writing := by decide
theorem witness_StallCycleCountsAndHolds_last :
    let s := stalled 2 false (copying .completing 512#16 0#8)
    s.dmc.rdyLow = true ∧ 2 ≤ s.dmc.stallCyclesRemaining.val ∧ s.env.repeatReadRev = false ∧
      s.oam.phase ≠ .reading ∧ s.oam.phase ≠ .writing := by decide
theorem witness_StallCycleCountsAndHolds_alone :
    let s := stalled 2 true State.reset
    s.dmc.rdyLow = true ∧ 2 ≤ s.dmc.stallCyclesRemaining.val ∧ s.oam.active = false := by decide

/-- One state for each clause. -/
theorem witness_FetchCycleEndsStallAndResumes :
    [stalled 1 true (copying .reading 510#16 255#8), stalled 1 true (copying .writing 511#16 255#8),
      stalled 1 true (copying .pausedDuringRead 0#16 0#8), stalled 1 true (copying .pausedDuringWrite 1#16 0#8),
      stalled 1 true (copying .aligning 0#16 0#8), stalled 1 true (copying .completing 512#16 0#8),
      stalled 1 true State.reset].all (fun s =>
        decide (BulkCopyInv s ∧ s.dmc.rdyLow = true ∧ s.dmc.stallCyclesRemaining.val ≤ 1)) = true := by decide

/-- The states of the invariant's witnesses: every phase, alone and held, with an alignment owed and not. -/
def invariantStates : List State :=
  [State.reset, stalled 1 true State.reset, stalled 4 false State.reset,
    copying .aligning 0#16 0#8, stalled 4 true (copying .aligning 0#16 0#8),
    copying .reading 510#16 255#8, owing (copying .reading 0#16 0#8), stalled 1 true (copying .reading 0#16 0#8),
    stalled 4 true (copying .reading 0#16 0#8),
    copying .writing 511#16 255#8, copying .writing 509#16 254#8, owing (copying .writing 1#16 0#8),
    stalled 1 false (copying .writing 1#16 0#8), stalled 2 true (copying .writing 511#16 255#8),
    stalled 1 true (copying .pausedDuringRead 510#16 255#8), stalled 3 true (copying .pausedDuringRead 0#16 0#8),
    stalled 1 true (owing (copying .pausedDuringWrite 511#16 255#8)),
    stalled 2 true (copying .pausedDuringWrite 1#16 0#8),
    copying .completing 512#16 0#8, stalled 1 true (copying .completing 512#16 0#8)]

theorem witness_Inv : invariantStates.all (fun s => decide (Inv s)) = true := by decide

/-- The invariant excludes something. -/
theorem test_Inv_refuses :
    [copying .reading 511#16 255#8, copying .pausedDuringRead 0#16 0#8, windowed true false false false,
      owing (copying .aligning 0#16 0#8)].all (fun s => !decide (Inv s)) = true := by decide

/-- Every next state of the table's witnesses exists. -/
theorem witness_PhaseTransitionTable :
    ∀ s ∈ invariantStates, ∃ t, exec .tick s = .next t := fun _ _ => ⟨_, rfl⟩

theorem witness_HaltRisesAndFalls_rise :
    halt State.reset = false ∧ ∃ t, exec (.dmcTrig 0xC000#16) State.reset = .next t ∧ halt t = true :=
  ⟨rfl, _, rfl, rfl⟩
theorem witness_HaltRisesAndFalls_complete :
    let s := copying .completing 512#16 0#8
    halt s = true ∧ ∃ t, exec .tick s = .next t ∧ halt t = false := ⟨rfl, _, rfl, rfl⟩
theorem witness_HaltRisesAndFalls_fetch :
    let s := stalled 1 true State.reset
    halt s = true ∧ ∃ t, exec .tick s = .next t ∧ halt t = false := ⟨rfl, _, rfl, rfl⟩

theorem witness_TimeBaseCountsTicks :
    (∀ i ∈ [Instr.tick, .stRead], i ≠ .reset) ∧
    ∃ t, runOps [.tick, .stRead] { State.reset with now := lastTick } = .next t := ⟨by decide, _, rfl⟩

/-- Each of the four sites, and a tick without an access, from states that meet the invariants. -/
theorem witness_BusAccessSites :
    (after .tick (copying .reading 510#16 255#8)).env.busLog = [.read .bulkCopy 201#64 0x02FF#16 0xFF#8] ∧
    (after .tick (copying .writing 509#16 254#8)).env.busLog = [.write 201#64 100#8 0x63#8] ∧
    (after .tick (stalled 1 true (copying .aligning 0#16 0#8))).env.busLog =
      [.read .sampleFetch 201#64 0xC000#16 0x5A#8] ∧
    (after .tick (stalled 2 true (copying .writing 511#16 255#8))).env.busLog =
      [.read .repeatRead 201#64 0x4016#16 0x41#8] ∧
    (after .tick (owing (copying .writing 1#16 0#8))).env.busLog = [] := by decide

theorem witness_NoBulkAccessUnderStall :
    (stalled 1 true (copying .writing 1#16 0#8)).dmc.rdyLow = true ∧
    ∃ t, exec .tick (stalled 1 true (copying .writing 1#16 0#8)) = .next t := ⟨rfl, _, rfl⟩

theorem witness_NonTickOperationsTouchNoBus : Instr.oamTrig 0xFF#8 true ≠ .tick ∧ Instr.reset ≠ .tick := by decide

theorem witness_TickMemoryFrame :
    let s := copying .completing 512#16 0#8
    (∃ t, exec .tick s = .next t) ∧
    ¬ (owner s = .oam ∧ s.cl.alignOwed = false ∧ s.oam.phase = .writing) := ⟨⟨_, rfl⟩, by decide⟩

theorem witness_LedgersAreIndependent :
    (∃ t, runOps [.winStart, .tick, .dmcTrig 0xC000#16, .stRead] State.reset = .next t) ∧
    (∃ u, runOps [.tick, .dmcTrig 0xC000#16] State.reset = .next u) ∧
    ∃ u, runOps [.winStart, .tick, .stRead] State.reset = .next u := ⟨⟨_, rfl⟩, ⟨_, rfl⟩, ⟨_, rfl⟩⟩

theorem witness_StallLastsExactlyFourTicks :
    State.reset.env.repeatReadRev = false ∧ (stalled 1 true State.reset).env.repeatReadRev = true := by decide

theorem witness_PreemptionCost :
    let a := copying .writing 511#16 255#8
    let b := copying .completing 512#16 0#8
    let c := owing (copying .reading 0#16 0#8)
    (a.dmc.rdyLow = false ∧ a.oam.active = true ∧ a.cl.alignOwed = false ∧ a.oam.phase = .writing) ∧
    (b.dmc.rdyLow = false ∧ b.oam.active = true ∧ b.cl.alignOwed = false ∧ b.oam.phase = .completing) ∧
    (c.dmc.rdyLow = false ∧ c.oam.active = true ∧ c.cl.alignOwed = true ∧ c.oam.phase = .reading) := by decide

theorem witness_FrequentFetchesStarveTransfer :
    let s := copying .reading 0#16 0#8
    s.dmc.rdyLow = false ∧ s.oam.active = true ∧ s.cl.alignOwed = false ∧ s.oam.phase = .reading := by decide

theorem witness_UninterruptedTransferTiming :
    State.reset.dmc.rdyLow = false ∧ (owing (copying .writing 511#16 255#8)).dmc.rdyLow = false := by decide

theorem witness_EveryByteCopiedExactlyOnce_active :
    [Instr.tick, .dmcTrig 0xC000#16, .tick].all keepsTransfer = true ∧
    ∃ t, runOps [.oamTrig 0x02#8 false, .tick, .dmcTrig 0xC000#16, .tick] State.reset = .next t ∧
      t.oam.active = true ∧ t.oam.currentCycle.toNat % 2 = 1 := ⟨by decide, _, rfl, rfl, rfl⟩

/-- A state with the longest stall before it, and a sequence that ends it: 518 ticks after operations that
trigger nothing. -/
theorem witness_HaltFallsWithinBound :
    let s := stalled 4 true (copying .reading 0#16 0#8)
    let ops := Instr.winStart :: .cpuRd 0xFFFF#16 :: .stRead :: .enWrite true :: List.replicate 518 .tick
    Inv s ∧ halt s = true ∧ ops.all triggersNothing = true ∧ 518 ≤ ops.count .tick ∧
      ∃ t, runOps ops s = .next t := by
  refine ⟨by decide, rfl, ?_, ?_, ?_⟩
  · simp only [List.all_cons, List.all_replicate, triggersNothing]
    rfl
  · simp only [List.count_cons, List.count_replicate_self]
    decide
  · rw [runOps_cons_next _ (exec_winStart _), runOps_cons_next _ (exec_cpuRd _ _),
      runOps_cons_next _ (exec_stRead _), runOps_cons_next _ (exec_enWrite _ _), runOps_replicate_tick _ _ rfl]
    exact ⟨_, rfl⟩

theorem witness_StepKeepsInvariants :
    ∃ s t : State, Inv s ∧ step s = .next t := ⟨copying .reading 0#16 0#8, _, by decide, rfl⟩

/-- A paused state, at the largest time base but one. -/
theorem witness_StepKeepsStampInvariant :
    ∃ s t : State, StampInv s ∧ s.now ≠ lastTick ∧ s.oam.phase.isPaused = true ∧ step s = .next t :=
  ⟨{ stalled 1 true (copying .pausedDuringRead 510#16 255#8) with now := 0xFFFFFFFFFFFFFFFE#64 }, _,
    by decide, by decide, rfl, rfl⟩

theorem witness_TraceLinesExpand :
    expandLine (.oamTrig 255 1) State.reset = some [.oamTrig 0xFF#8 true] ∧
    expandLine (.oamTrig 256 0) State.reset = none ∧ expandLine (.oamStart 256) State.reset = none ∧
    expandLine .runUntilIdle (stalled 1 true State.reset) = some [.tick] := by decide

theorem witness_OrderOfSimultaneousEvents :
    State.reset.dmc.rdyLow = false ∧ (∃ t, exec (.cpuRd 0xFFFF#16) State.reset = .next t) ∧
    (∃ t, exec (.dmcTrig 0xC000#16) State.reset = .next t) ∧
    (∃ t, exec (.oamTrig 0xFF#8 true) (stalled 2 false (copying .pausedDuringRead 0#16 0#8)) = .next t) ∧
    (∃ t, exec (.dmcTrig 0xC000#16) (stalled 2 false (copying .pausedDuringRead 0#16 0#8)) = .next t) ∧
    (∃ t, exec .winStart (windowed false false true false) = .next t) ∧
    (∃ t, exec (.enWrite true) (windowed false false true false) = .next t) ∧
    ∃ t, exec .stRead (windowed false false true false) = .next t :=
  ⟨rfl, ⟨_, rfl⟩, ⟨_, rfl⟩, ⟨_, rfl⟩, ⟨_, rfl⟩, ⟨_, rfl⟩, ⟨_, rfl⟩, ⟨_, rfl⟩⟩

theorem witness_CanonicalCycleHonoursHalt :
    halt (copying .reading 0#16 0#8) = true ∧
    canonicalCycle { window := some .start, sampleRequest := none, access := some (.statusRead 0x2002#16) }
      (copying .reading 0#16 0#8) = [.winStart, .tick] := by decide

/-- Not under `halt`, with an event of each kind: the reference order of 92_eei_decisions.md D21. -/
theorem witness_CanonicalCycleKeepsReadReport :
    let e : CycleEvents :=
      { window := some .start, sampleRequest := some 0xC000#16, access := some (.statusRead 0x1234#16) }
    halt State.reset = false ∧
    canonicalCycle e State.reset = [.winStart, .cpuRd 0x1234#16, .stRead, .dmcTrig 0xC000#16, .tick] ∧
    listedCycle e State.reset = [.winStart, .dmcTrig 0xC000#16, .cpuRd 0x1234#16, .stRead, .tick] := by decide

/-- The other case: an access that is no read, and a cycle under `halt`. -/
theorem witness_CanonicalCycleKeepsReadReport_no_read :
    (∀ addr : Addr, some (ProcessorAccess.triggerWrite 0xFF#8) ≠ some (.read addr) ∧
      some (ProcessorAccess.triggerWrite 0xFF#8) ≠ some (.statusRead addr)) ∧
    halt (copying .completing 512#16 0#8) = true := ⟨fun _ => by simp, rfl⟩

/-! A transfer that runs to its end, for the statements about completed transfers. -/

/-- A memory that lists one byte value on a run of addresses. -/
theorem read_run (v : Byte) (n b i : Nat) (h : i < n) :
    Memory.read ((List.range' b n).map (fun x => (x, v))) (b + i) = some v := by
  induction n generalizing b i with
  | zero => omega
  | succ n ih =>
    rw [List.range'_succ, List.map_cons]
    cases i with
    | zero => simp [Memory.read]
    | succ i =>
      have := ih (b + 1) i (by omega)
      rw [Memory.read, if_neg (by omega), show b + (i + 1) = b + 1 + i by omega]
      exact this

/-- Page 2 holds 0x7E everywhere. -/
def pageTwoListed : State :=
  { State.reset with env := { Env.initial with main := (List.range' 0x200 256).map (fun x => (x, 0x7E#8)) } }

/-- Byte `k` of the page is next to be read. -/
abbrev atByte (k : Nat) (s : State) : Prop :=
  s.dmc.rdyLow = false ∧ s.oam.active = true ∧ s.cl.alignOwed = false ∧ s.oam.phase = .reading ∧
  s.oam.currentCycle = BitVec.ofNat 16 (2 * k)

/-- Two ticks copy one byte, and lead to the next or to the completion cycle. -/
theorem two_ticks (s : State) (hr : s.dmc.rdyLow = false) (ha : s.oam.active = true)
    (ho : s.cl.alignOwed = false) (hp : s.oam.phase = .reading) :
    (tick (tick s)).dmc.rdyLow = false ∧ (tick (tick s)).oam.active = true ∧
    (tick (tick s)).cl.alignOwed = false ∧
    (tick (tick s)).oam.currentCycle = s.oam.currentCycle + 1#16 + 1#16 ∧
    (tick (tick s)).oam.phase =
      if s.oam.currentCycle + 1#16 + 1#16 = Config.transferHalfCycles then .completing else .reading := by
  have h1 : tick s = readHalf (s.setNow (s.now + 1#64)) := by
    simp [tick, owner, hr, ha, oamStep, ho, hp]
  have h2 : tick (readHalf (s.setNow (s.now + 1#64))) =
      writeHalf ((readHalf (s.setNow (s.now + 1#64))).setNow (s.now + 1#64 + 1#64)) := by
    simp [tick, owner, oamStep, readHalf, hr, ha, ho]
  rw [h1, h2]
  simp [writeHalf, readHalf, hr, ha, ho]

theorem ticks_atByte (s : State) (h : atByte 0 s) (k : Nat) (hk : k ≤ 255) : atByte k (ticks (2 * k) s) := by
  induction k with
  | zero => exact h
  | succ k ih =>
    obtain ⟨h1, h2, h3, h4, h5⟩ := ih (by omega)
    have ht := two_ticks _ h1 h2 h3 h4
    rw [h5] at ht
    have hc : BitVec.ofNat 16 (2 * k) + 1#16 + 1#16 = BitVec.ofNat 16 (2 * (k + 1)) := by
      simp [BitVec.toNat_eq]; omega
    have hn : BitVec.ofNat 16 (2 * (k + 1)) ≠ Config.transferHalfCycles := by
      simp [BitVec.toNat_eq, Config.transferHalfCycles]; omega
    rw [hc, if_neg hn] at ht
    rw [show 2 * (k + 1) = 2 * k + 2 by omega, ticks_add]
    exact ⟨ht.1, ht.2.1, ht.2.2.1, ht.2.2.2.2, ht.2.2.2.1⟩

theorem last_three_ticks (u : State) (h : atByte 255 u) : (tick (tick (tick u))).oam.active = false := by
  obtain ⟨h1, h2, h3, h4, h5⟩ := h
  obtain ⟨t1, t2, t3, -, t5⟩ := two_ticks u h1 h2 h3 h4
  rw [h5, if_pos (by decide)] at t5
  rw [tick, owner, if_neg (by simp [t1]), if_pos t2]
  simp [oamStep, t3, t5, complete, Oam.reset]

theorem transfer_completes (s : State) (h : atByte 0 s) (n : Nat) (hn : n = 2 * 255 + 3) :
    (ticks n s).oam.active = false := by
  subst hn
  rw [ticks_add, ticks_succ, ticks_succ, ticks_succ, ticks_zero]
  exact last_three_ticks _ (ticks_atByte s h 255 (by omega))

theorem witness_CompletedTransferCopiesPage :
    (∀ i : Byte, Memory.read pageTwoListed.env.main (0x02#8 ++ i).toNat = some 0x7E#8) ∧
    (List.replicate 513 Instr.tick).all keepsTransfer = true ∧
    ∃ t, runOps (.oamTrig 0x02#8 false :: List.replicate 513 .tick) pageTwoListed = .next t ∧
      t.oam.active = false := by
  refine ⟨fun i => ?_, List.all_replicate.trans (by simp [keepsTransfer]), ?_⟩
  · have : (0x02#8 ++ i).toNat = 0x200 + i.toNat := by
      have h : (0x02#8 ++ i : BitVec 16) = BitVec.ofNat 16 (0x200 + i.toNat) := by
        revert i; decide
      rw [h, BitVec.toNat_ofNat, Nat.mod_eq_of_lt (by have := i.isLt; omega)]
    rw [this]
    exact read_run 0x7E#8 256 0x200 i.toNat i.isLt
  · rw [runOps_cons_next _ (exec_oamTrig _ _ _), runOps_replicate_tick _ _ rfl]
    exact ⟨_, rfl, transfer_completes _ ⟨rfl, rfl, rfl, rfl, rfl⟩ 513 (by omega)⟩

/-- The same transfer is the witness of the completed case. -/
theorem witness_EveryByteCopiedExactlyOnce_completed :
    ∃ t, runOps (.oamTrig 0x02#8 false :: List.replicate 513 .tick) pageTwoListed = .next t ∧
      t.oam.active = false := witness_CompletedTransferCopiesPage.2.2

end Sys2Proof.Tests
end

section
/-! PROOFS. Completion of every operation and the one refusal (00_scope.md R4). -/

namespace Sys2Proof.Machine

/-- A step on a word that decodes performs the operation, the word taken (00_scope.md R1). -/
theorem step_of_decode_ok {s : State} {i : Instr} (h : decodeWord (presentedWord s) = .ok i) :
    step s = exec i (takeWord s) := by
  simp only [step, h]

/-- A step on a word that spells no operation is refused by name (30_encoding.md R66). -/
theorem step_of_decode_error {s : State} {r : Reject} (h : decodeWord (presentedWord s) = .error r) :
    step s = .refused (.spellsNoOperation r) := by
  simp only [step, h]

/-- No operation faults or is refused once it has been decoded (00_scope.md R4). -/
theorem exec_completes (i : Instr) (s : State) : ∃ t, exec i s = .next t := by
  cases i with
  | tick => exact ⟨_, exec_tick s⟩
  | oamTrig page odd => exact ⟨_, exec_oamTrig page odd s⟩
  | dmcTrig addr => exact ⟨_, exec_dmcTrig addr s⟩
  | cpuRd addr => exact ⟨_, exec_cpuRd addr s⟩
  | stRead => exact ⟨_, exec_stRead s⟩
  | enWrite en => exact ⟨_, exec_enWrite en s⟩
  | winStart => exact ⟨_, exec_winStart s⟩
  | winEnd => exact ⟨_, exec_winEnd s⟩
  | reset => exact ⟨_, exec_reset s⟩

/-- Settles O9: each operation completes by its own equation, so a step's outcome turns on the decoder alone. -/
theorem everyOperationCompletes : Obligations.EveryOperationCompletes := by
  refine ⟨exec_completes, fun s => ?_⟩
  cases hd : decodeWord (presentedWord s) with
  | ok i =>
    obtain ⟨t, ht⟩ := exec_completes i (takeWord s)
    exact .inl ⟨i, t, rfl, (step_of_decode_ok hd).trans ht⟩
  | error r => exact .inr ⟨r, rfl, step_of_decode_error hd⟩

end Sys2Proof.Machine
end

section
/-! PROOFS. The sample-fetch trigger: its word, its effect with the frame, and what a stall in progress
means for the outputs, the owner of the next tick and a read report (41_sample_fetch_dma.md R100, R101). -/

namespace Sys2Proof.Machine

/-- With no flag the word is the shifted `op` beside the argument (30_encoding.md R67). -/
theorem packWord_without_odd (op : BitVec 4) (arg : BitVec 16) :
    packWord op false arg = op.setWidth 32 <<< 28 ||| arg.setWidth 32 := by
  simp [packWord]

/-- What the trigger sets, with `stallLen` as its number; every part not named is as it was (R100). -/
theorem startFetch_eq (addr : Addr) (s : State) :
    startFetch addr s = { s with
      dmc := { s.dmc with rdyLow := true, stallCyclesRemaining := 4, sampleAddress := addr }
      cl := { s.cl with
        dmcActiveCycle := if s.dmc.rdyLow = false then s.now else s.cl.dmcActiveCycle } } := by
  cases h : s.dmc.rdyLow <;> simp [startFetch, h, State.setCl, State.setDmc, Config.stallLen]

@[simp] theorem startFetch_rdyLow (addr : Addr) (s : State) : (startFetch addr s).dmc.rdyLow = true := rfl

theorem halt_of_rdyLow {s : State} (h : s.dmc.rdyLow = true) : halt s = true := by simp [halt, h]

@[simp] theorem outputs_dmcBusy (s : State) : (outputs s).dmcBusy = s.dmc.rdyLow := rfl

theorem owner_of_rdyLow {s : State} (h : s.dmc.rdyLow = true) : owner s = .dmc := if_pos h

/-- A read reported during a stall is not kept (R101). -/
theorem reportRead_of_rdyLow {s : State} (h : s.dmc.rdyLow = true) (addr : Addr) : reportRead addr s = s :=
  if_pos h

/-- Settles O14: `startFetch_eq` is the effect with its frame, and the rest follows from the stall being in
progress. -/
theorem sampleTriggerStartsStall : Obligations.SampleTriggerStartsStall := by
  refine ⟨packWord_without_odd 0x2#4, fun addr s => ?_⟩
  have stalled := startFetch_rdyLow addr s
  refine ⟨startFetch addr s, exec_dmcTrig addr s, startFetch_eq addr s, halt_of_rdyLow stalled,
    (outputs_dmcBusy _).trans stalled, owner_of_rdyLow stalled, fun addr' => ?_⟩
  rw [exec_cpuRd, reportRead_of_rdyLow stalled]

end Sys2Proof.Machine
end

section
/-! PROOFS. The owner of a cycle, one equation per branch (42_arbitration_tick.md R121); the branch of a stall
in progress is `owner_of_rdyLow`. -/

namespace Sys2Proof.Machine

/-- With no stall, an active transfer owns the cycle. -/
theorem owner_of_active {s : State} (hr : s.dmc.rdyLow = false) (ha : s.oam.active = true) :
    owner s = .oam := by
  simp [owner, hr, ha]

/-- With both engines idle nobody owns the cycle (R126). -/
theorem owner_of_idle {s : State} (hr : s.dmc.rdyLow = false) (ha : s.oam.active = false) :
    owner s = .none := by
  simp [owner, hr, ha]

/-- Settles O26: the sample-fetch test comes first, whatever the bulk-copy engine does, and each branch has its
equation. -/
theorem sampleFetchOwnsContestedCycle : Obligations.SampleFetchOwnsContestedCycle :=
  fun _ => ⟨owner_of_rdyLow, owner_of_active, owner_of_idle⟩

end Sys2Proof.Machine
end

section
/-! PROOFS. The interrupt line: a settled line is flag AND enable, each operation of the ledger and `RESET`
settle it, and the other operations do not touch the ledger (43_interrupt_ledger.md R154, R155). -/

namespace Sys2Proof.Machine

/-- The equation of R155. -/
def InterruptLedger.LineSettled (l : InterruptLedger) : Prop := l.line = (l.flag && l.enable)

/-- The four operations of the ledger, and `RESET` (R155, 44_system_ops.md R170). -/
def WritesLedger (i : Instr) : Prop :=
  i = .winStart ∨ i = .winEnd ∨ i = .stRead ∨ (∃ en, i = .enWrite en) ∨ i = .reset

/-- `TICK`, the two triggers and the read report. -/
def KeepsLedger (i : Instr) : Prop :=
  i = .tick ∨ (∃ page odd, i = .oamTrig page odd) ∨ (∃ addr, i = .dmcTrig addr) ∨ ∃ addr, i = .cpuRd addr

theorem writesLedger_or_keepsLedger (i : Instr) : WritesLedger i ∨ KeepsLedger i := by
  cases i <;> simp [WritesLedger, KeepsLedger]

/-- An operation has one outcome. -/
theorem exec_next_unique {i : Instr} {s t u : State} (hu : exec i s = .next u) (ht : exec i s = .next t) :
    t = u :=
  Host.Outcome.next.inj (ht.symm.trans hu)

/-! What settles the line, and what a settled line is left as. -/

theorem lineSettled_recomputeLine (l : InterruptLedger) : (recomputeLine l).LineSettled := recomputeLine_line l

theorem recomputeLine_of_lineSettled {l : InterruptLedger} (h : l.LineSettled) : recomputeLine l = l := by
  unfold InterruptLedger.LineSettled at h
  rw [recomputeLine, ← h]

theorem lineSettled_clearFlag (now : Stamp) (l : InterruptLedger) : (clearFlag now l).LineSettled :=
  lineSettled_recomputeLine _

/-- The span bit that `WIN_END` writes has no part in the equation. -/
theorem lineSettled_windowEnd (s : State) : (windowEnd s).il.LineSettled := lineSettled_clearFlag s.now s.il

/-- The stamp that `ST_READ` takes has no part in the equation. -/
theorem lineSettled_readStatus (s : State) : (readStatus s).il.LineSettled := lineSettled_clearFlag s.now s.il

theorem lineSettled_reset : InterruptLedger.reset.LineSettled := rfl

/-- Whatever the line was before, these operations settle it. -/
theorem exec_settles_line {i : Instr} {s t : State} (hi : WritesLedger i) (h : exec i s = .next t) :
    t.il.LineSettled := by
  rcases hi with rfl | rfl | rfl | ⟨en, rfl⟩ | rfl
  · obtain rfl := exec_next_unique (exec_winStart s) h
    exact lineSettled_recomputeLine _
  · obtain rfl := exec_next_unique (exec_winEnd s) h
    exact lineSettled_windowEnd s
  · obtain rfl := exec_next_unique (exec_stRead s) h
    exact lineSettled_readStatus s
  · obtain rfl := exec_next_unique (exec_enWrite en s) h
    exact lineSettled_recomputeLine _
  · obtain rfl := exec_next_unique (exec_reset s) h
    exact lineSettled_reset

/-- The engines' operations write no field of the ledger (R155). -/
theorem exec_keeps_il {i : Instr} {s t : State} (hi : KeepsLedger i) (h : exec i s = .next t) :
    t.il = s.il := by
  rcases hi with rfl | ⟨page, odd, rfl⟩ | ⟨addr, rfl⟩ | ⟨addr, rfl⟩
  · obtain rfl := exec_next_unique (exec_tick s) h
    exact tick_il s
  · obtain rfl := exec_next_unique (exec_oamTrig page odd s) h
    exact startCopy_il page odd s
  · obtain rfl := exec_next_unique (exec_dmcTrig addr s) h
    exact startFetch_il addr s
  · obtain rfl := exec_next_unique (exec_cpuRd addr s) h
    exact reportRead_il addr s

theorem exec_keeps_lineSettled {i : Instr} {s t : State} (hs : s.il.LineSettled) (h : exec i s = .next t) :
    t.il.LineSettled := by
  rcases writesLedger_or_keepsLedger i with hi | hi
  · exact exec_settles_line hi h
  · rwa [exec_keeps_il hi h]

/-- Settles O22: an operation that writes the ledger settles the line, and one that does not keeps the ledger. -/
theorem lineIsFlagAndEnable : Obligations.LineIsFlagAndEnable := by
  refine fun i s t h => ⟨fun hi => exec_settles_line hi h, fun hi => ?_, fun hs => exec_keeps_lineSettled hs h⟩
  rw [exec_keeps_il hi h]
  exact ⟨rfl, rfl, rfl⟩

/-! The enable-bit write. -/

/-- Every part not named is as it was; the span bit is not looked at (R154). -/
theorem writeEnable_eq (en : Bool) (s : State) :
    writeEnable en s = { s with il := { s.il with enable := en, line := s.il.flag && en } } := rfl

@[simp] theorem writeEnable_flag (en : Bool) (s : State) : (writeEnable en s).il.flag = s.il.flag := rfl
@[simp] theorem intLine_writeEnable (en : Bool) (s : State) : intLine (writeEnable en s) = (s.il.flag && en) :=
  rfl

/-- Writing the bit that stands changes nothing where the line is settled. -/
theorem writeEnable_same {s : State} (h : s.il.LineSettled) : writeEnable s.il.enable s = s := by
  rw [writeEnable, recomputeLine_of_lineSettled h, State.setIl_self]

/-- Settles O17: the effect is `writeEnable_eq`; each corner case on the line is a value of flag AND operand,
and the rewrite of the same bit is `writeEnable_same`. -/
theorem enableWriteRecomputesLine : Obligations.EnableWriteRecomputesLine := by
  refine ⟨by decide, by decide, fun en s => ⟨writeEnable en s, exec_enWrite en s, writeEnable_eq en s,
    fun hf he => ?_, fun hf => ?_, fun he => ?_, fun hl he => ?_, fun hf u hu => ?_⟩⟩
  · simp [hf, he]
  · simp [hf]
  · simp [he]
  · rw [he, writeEnable_same hl]
  · obtain rfl := exec_next_unique (exec_enWrite false s) hu
    exact ⟨by simp, _, exec_enWrite true _, by simp [hf]⟩

end Sys2Proof.Machine
end

section
/-! PROOFS. The decoder: the rows of the opcode map are disjoint, and the decoder answers the operation of the row
hit, with the operands that stand in the word (30_encoding.md R65, R66). -/

namespace Sys2Proof

/-! The rows of the opcode map. -/

/-- Every mask of the map covers the whole `op` field (R65). -/
theorem opField_mask {r : OpcodeRow} (hr : r ∈ opcodeMap) : opField r.mask = 0xF#4 := by
  revert r; decide

/-- `op` alone tells the rows apart (R65). -/
theorem opField_pattern_injective {r r' : OpcodeRow} (hr : r ∈ opcodeMap) (hr' : r' ∈ opcodeMap)
    (h : opField r.pattern = opField r'.pattern) : r = r' := by
  have all : ∀ r ∈ opcodeMap, ∀ r' ∈ opcodeMap, opField r.pattern = opField r'.pattern → r = r' := by decide
  exact all r hr r' hr' h

theorem Instr.row_mem (i : Instr) : i.row ∈ opcodeMap := by
  cases i <;> simp [opcodeMap, Instr.row]

theorem hits_iff {r : OpcodeRow} {w : CmdWord} : r.hits w = true ↔ w &&& r.mask = r.pattern := beq_iff_eq

theorem opField_of_hits {r : OpcodeRow} {w : CmdWord} (hr : r ∈ opcodeMap) (h : r.hits w = true) :
    opField w = opField r.pattern := by
  have hand : opField (w &&& r.mask) = opField w &&& opField r.mask := BitVec.extractLsb'_and
  rw [← hits_iff.mp h, hand, opField_mask hr, show (0xF#4 : BitVec 4) = BitVec.allOnes 4 from rfl,
    BitVec.and_allOnes]

theorem hits_unique {r r' : OpcodeRow} {w : CmdWord} (hr : r ∈ opcodeMap) (hr' : r' ∈ opcodeMap)
    (h : r.hits w = true) (h' : r'.hits w = true) : r = r' :=
  opField_pattern_injective hr hr' ((opField_of_hits hr h).symm.trans (opField_of_hits hr' h'))

/-- Of the rows of the map, only the one that is hit is hit. -/
theorem hits_eq_decide {r r' : OpcodeRow} {w : CmdWord} (hr : r ∈ opcodeMap) (h : r.hits w = true)
    (hr' : r' ∈ opcodeMap) : r'.hits w = decide (r' = r) := by
  by_cases heq : r' = r
  · simp [heq, h]
  · simpa [heq] using fun h' => heq (hits_unique hr' hr h' h)

/-! The decoder answers the operation of the row hit, its operands read from their fields. -/

/-- The operation of the same row with the operands that stand in `w` (R61 to R64). -/
def Instr.withFields (w : CmdWord) : Instr → Instr
  | .tick => .tick
  | .oamTrig _ _ => .oamTrig (pageField w) (oddField w)
  | .dmcTrig _ => .dmcTrig (addrField w)
  | .cpuRd _ => .cpuRd (addrField w)
  | .stRead => .stRead
  | .enWrite _ => .enWrite (enField w)
  | .winStart => .winStart
  | .winEnd => .winEnd
  | .reset => .reset

@[simp] theorem Instr.row_withFields (w : CmdWord) (i : Instr) : (i.withFields w).row = i.row := by
  cases i <;> rfl

theorem decodeWord_of_hits {w : CmdWord} {i : Instr} (h : i.row.hits w = true) :
    decodeWord w = .ok (i.withFields w) := by
  have only : ∀ r ∈ opcodeMap, r.hits w = decide (r = i.row) := fun r => hits_eq_decide i.row_mem h
  simp only [opcodeMap, List.forall_mem_cons] at only
  obtain ⟨h1, h2, h3, h4, h5, h6, h7, h8, h9, -⟩ := only
  rw [decodeWord, h1, h2, h3, h4, h5, h6, h7, h8, h9]
  cases i <;> rfl

theorem exists_row_eq {r : OpcodeRow} (hr : r ∈ opcodeMap) : ∃ i : Instr, i.row = r := by
  simp only [opcodeMap, List.mem_cons, List.not_mem_nil, or_false] at hr
  rcases hr with rfl | rfl | rfl | rfl | rfl | rfl | rfl | rfl | rfl
  · exact ⟨.tick, rfl⟩
  · exact ⟨.oamTrig 0 false, rfl⟩
  · exact ⟨.dmcTrig 0, rfl⟩
  · exact ⟨.cpuRd 0, rfl⟩
  · exact ⟨.stRead, rfl⟩
  · exact ⟨.enWrite false, rfl⟩
  · exact ⟨.winStart, rfl⟩
  · exact ⟨.winEnd, rfl⟩
  · exact ⟨.reset, rfl⟩

theorem decodeWord_of_no_hit {w : CmdWord} (h : ∀ r ∈ opcodeMap, r.hits w = false) :
    decodeWord w = .error (rejectOf w) := by
  simp only [opcodeMap, List.forall_mem_cons] at h
  obtain ⟨h1, h2, h3, h4, h5, h6, h7, h8, h9, -⟩ := h
  simp [decodeWord, h1, h2, h3, h4, h5, h6, h7, h8, h9]

/-- What the decoder answers, by whether a row is hit (R65, R66). -/
theorem decodeWord_cases (w : CmdWord) :
    (∃ i : Instr, i.row.hits w = true ∧ decodeWord w = .ok (i.withFields w)) ∨
    ((∀ r ∈ opcodeMap, r.hits w = false) ∧ decodeWord w = .error (rejectOf w)) := by
  by_cases h : ∃ r ∈ opcodeMap, r.hits w = true
  · obtain ⟨r, hr, hw⟩ := h
    obtain ⟨i, rfl⟩ := exists_row_eq hr
    exact .inl ⟨i, hw, decodeWord_of_hits hw⟩
  · have none : ∀ r ∈ opcodeMap, r.hits w = false := fun r hr =>
      Bool.eq_false_iff.mpr fun hw => h ⟨r, hr, hw⟩
    exact .inr ⟨none, decodeWord_of_no_hit none⟩

theorem decodeWord_ok_iff_hit (w : CmdWord) :
    (∃ i, decodeWord w = .ok i) ↔ ∃ r ∈ opcodeMap, r.hits w = true := by
  constructor
  · rintro ⟨i, hi⟩
    obtain ⟨j, hj, -⟩ | ⟨-, herr⟩ := decodeWord_cases w
    · exact ⟨j.row, j.row_mem, hj⟩
    · rw [hi] at herr
      cases herr
  · rintro ⟨r, hr, hw⟩
    obtain ⟨i, rfl⟩ := exists_row_eq hr
    exact ⟨_, decodeWord_of_hits hw⟩

theorem decodeWord_error {w : CmdWord} {r : Reject} (h : decodeWord w = .error r) : r = rejectOf w := by
  obtain ⟨j, -, hok⟩ | ⟨-, herr⟩ := decodeWord_cases w
  · rw [h] at hok
    cases hok
  · rw [h] at herr
    exact Except.error.inj herr

/-- Settles O5: the `op` field of a word is that of every row it hits, and the map's `op` fields differ. -/
theorem opcodeRowsDisjoint : Obligations.OpcodeRowsDisjoint := by
  refine ⟨fun w r r' => hits_unique, fun w r hr hw => ?_⟩
  obtain ⟨i, rfl⟩ := exists_row_eq hr
  exact ⟨i.withFields w, decodeWord_of_hits hw, i.row_withFields w⟩

end Sys2Proof
end

section
/-! PROOFS. Which words hit a row, said field by field, so which words are legal (30_encoding.md R66), and where
the encoder puts each operand (R60 to R64). -/

namespace Sys2Proof

/-! Hitting a row, said field by field. -/

/-- Two neighbouring fields agree exactly when the field they make up together does. -/
theorem extractLsb'_add_eq_iff {x y : CmdWord} (start m n : Nat) :
    x.extractLsb' start (m + n) = y.extractLsb' start (m + n) ↔
      x.extractLsb' start m = y.extractLsb' start m ∧
      x.extractLsb' (start + m) n = y.extractLsb' (start + m) n := by
  simp only [BitVec.eq_of_getLsbD_eq_iff, BitVec.getLsbD_extractLsb']
  constructor
  · intro h
    refine ⟨fun i hi => ?_, fun i hi => ?_⟩
    · simpa [hi, show i < m + n by omega] using h i (by omega)
    · simpa [hi, show m + i < m + n by omega, Nat.add_assoc] using h (m + i) (by omega)
  · rintro ⟨hlow, hhigh⟩ i hi
    by_cases him : i < m
    · simpa [hi, him] using hlow i him
    · have hk := hhigh (i - m) (by omega)
      simpa [hi, show i - m < n by omega, show start + m + (i - m) = start + i by omega] using hk

/-- A word is its `op` field and the rest (R60). -/
theorem cmdWord_ext_iff {x y : CmdWord} :
    x = y ↔ x.extractLsb' 0 28 = y.extractLsb' 0 28 ∧ x.extractLsb' 28 4 = y.extractLsb' 28 4 := by
  rw [← extractLsb'_add_eq_iff 0 28 4, BitVec.extractLsb'_eq_self, BitVec.extractLsb'_eq_self]

/-- A row asks of a field that its mask covers that it be the pattern's, and of one that its mask leaves out
nothing. -/
theorem field_of_mask_iff {r : OpcodeRow} {w : CmdWord} (start n : Nat)
    (hm : r.mask.extractLsb' start n = BitVec.allOnes n) :
    (w &&& r.mask).extractLsb' start n = r.pattern.extractLsb' start n ↔
      w.extractLsb' start n = r.pattern.extractLsb' start n := by
  rw [BitVec.extractLsb'_and, hm, BitVec.and_allOnes]

theorem field_outside_mask {r : OpcodeRow} (w : CmdWord) (start n : Nat)
    (hm : r.mask.extractLsb' start n = 0#n) (hp : r.pattern.extractLsb' start n = 0#n) :
    (w &&& r.mask).extractLsb' start n = r.pattern.extractLsb' start n := by
  rw [BitVec.extractLsb'_and, hm, hp, BitVec.and_zero]

/-- Hitting a row that fixes every bit and has no operand. -/
theorem hits_fixed_iff (r : OpcodeRow) {w : CmdWord} (hop : r.mask.extractLsb' 28 4 = BitVec.allOnes 4)
    (hrest : r.mask.extractLsb' 0 28 = BitVec.allOnes 28) (hp : r.pattern.extractLsb' 0 28 = 0#28) :
    r.hits w = true ↔ w.extractLsb' 28 4 = r.pattern.extractLsb' 28 4 ∧ w.extractLsb' 0 28 = 0#28 := by
  rw [hits_iff, cmdWord_ext_iff, field_of_mask_iff 0 28 hrest, field_of_mask_iff 28 4 hop, hp, and_comm]

/-- Hitting a row with an address operand. -/
theorem hits_addr_iff (r : OpcodeRow) {w : CmdWord} (hop : r.mask.extractLsb' 28 4 = BitVec.allOnes 4)
    (hz : r.mask.extractLsb' 16 12 = BitVec.allOnes 12) (ha : r.mask.extractLsb' 0 16 = 0#16)
    (hp : r.pattern.extractLsb' 0 28 = 0#28) :
    r.hits w = true ↔ w.extractLsb' 28 4 = r.pattern.extractLsb' 28 4 ∧ w.extractLsb' 16 12 = 0#12 := by
  have hp' : r.pattern.extractLsb' 0 (16 + 12) = (0#32).extractLsb' 0 (16 + 12) := hp
  obtain ⟨hpa, hpz⟩ := (extractLsb'_add_eq_iff 0 16 12).mp hp'
  rw [hits_iff, cmdWord_ext_iff, extractLsb'_add_eq_iff 0 16 12, field_of_mask_iff 28 4 hop,
    field_of_mask_iff 16 12 hz, hpz, and_comm, and_iff_right (field_outside_mask w 0 16 ha hpa)]
  rfl

theorem hits_rowOamTrig_iff {w : CmdWord} : rowOamTrig.hits w = true ↔
    w.extractLsb' 28 4 = 0x1#4 ∧ w.extractLsb' 17 11 = 0#11 ∧ w.extractLsb' 8 8 = 0#8 := by
  rw [hits_iff, cmdWord_ext_iff, extractLsb'_add_eq_iff 0 17 11, extractLsb'_add_eq_iff 0 16 1,
    extractLsb'_add_eq_iff 0 8 8, field_of_mask_iff 28 4 (by decide), field_of_mask_iff (0 + 17) 11 (by decide),
    field_of_mask_iff (0 + 8) 8 (by decide), and_iff_right (field_outside_mask w 0 8 (by decide) (by decide)),
    and_iff_left (field_outside_mask w (0 + 16) 1 (by decide) (by decide))]
  exact ⟨fun ⟨⟨hpage, hz1⟩, hop⟩ => ⟨hop, hz1, hpage⟩, fun ⟨hop, hz1, hpage⟩ => ⟨⟨hpage, hz1⟩, hop⟩⟩

theorem hits_rowEnWrite_iff {w : CmdWord} : rowEnWrite.hits w = true ↔
    w.extractLsb' 28 4 = 0x5#4 ∧ w.extractLsb' 1 27 = 0#27 := by
  rw [hits_iff, cmdWord_ext_iff, extractLsb'_add_eq_iff 0 1 27, field_of_mask_iff 28 4 (by decide),
    field_of_mask_iff (0 + 1) 27 (by decide), and_iff_right (field_outside_mask w 0 1 (by decide) (by decide)),
    and_comm]
  rfl

/-- Some row of the map is hit exactly by the words that R66 calls legal. -/
theorem exists_hit_iff (w : CmdWord) : (∃ r ∈ opcodeMap, r.hits w = true) ↔
    (w.extractLsb' 28 4 = 0x0#4 ∨ w.extractLsb' 28 4 = 0x4#4 ∨ w.extractLsb' 28 4 = 0x6#4 ∨
      w.extractLsb' 28 4 = 0x7#4 ∨ w.extractLsb' 28 4 = 0xF#4) ∧ w.extractLsb' 0 28 = 0#28 ∨
    w.extractLsb' 28 4 = 0x1#4 ∧ w.extractLsb' 17 11 = 0#11 ∧ w.extractLsb' 8 8 = 0#8 ∨
    (w.extractLsb' 28 4 = 0x2#4 ∨ w.extractLsb' 28 4 = 0x3#4) ∧ w.extractLsb' 16 12 = 0#12 ∨
    w.extractLsb' 28 4 = 0x5#4 ∧ w.extractLsb' 1 27 = 0#27 := by
  simp only [opcodeMap, List.mem_cons, List.not_mem_nil, or_false, exists_eq_or_imp, exists_eq_left]
  rw [hits_fixed_iff rowTick (by decide) (by decide) (by decide),
    hits_fixed_iff rowStRead (by decide) (by decide) (by decide),
    hits_fixed_iff rowWinStart (by decide) (by decide) (by decide),
    hits_fixed_iff rowWinEnd (by decide) (by decide) (by decide),
    hits_fixed_iff rowReset (by decide) (by decide) (by decide),
    hits_addr_iff rowDmcTrig (by decide) (by decide) (by decide) (by decide),
    hits_addr_iff rowCpuRd (by decide) (by decide) (by decide) (by decide),
    hits_rowOamTrig_iff, hits_rowEnWrite_iff,
    show rowTick.pattern.extractLsb' 28 4 = 0x0#4 by decide,
    show rowStRead.pattern.extractLsb' 28 4 = 0x4#4 by decide,
    show rowWinStart.pattern.extractLsb' 28 4 = 0x6#4 by decide,
    show rowWinEnd.pattern.extractLsb' 28 4 = 0x7#4 by decide,
    show rowReset.pattern.extractLsb' 28 4 = 0xF#4 by decide,
    show rowDmcTrig.pattern.extractLsb' 28 4 = 0x2#4 by decide,
    show rowCpuRd.pattern.extractLsb' 28 4 = 0x3#4 by decide]
  simp only [or_and_right]
  refine Iff.of_eq ?_
  ac_rfl

theorem rejectOf_eq (w : CmdWord) :
    rejectOf w = if 0x8#4 ≤ w.extractLsb' 28 4 ∧ w.extractLsb' 28 4 ≤ 0xE#4
      then .reservedOp (w.extractLsb' 28 4) else .mustBeZero (w.extractLsb' 28 4) := by
  exact if_congr (by rw [isReservedOp, Bool.and_eq_true, decide_eq_true_iff, decide_eq_true_iff, opField]) rfl rfl

/-- Settles O4: a word decodes when it hits a row, each row is hit by the words with its fields, and every
other word gets `rejectOf`, which a step hands on. -/
theorem illegalWordsAreRefused : Obligations.IllegalWordsAreRefused := by
  refine ⟨fun w => (decodeWord_ok_iff_hit w).trans (exists_hit_iff w),
    fun w r h => (decodeWord_error h).trans (rejectOf_eq w), fun s w ws r hp h => ?_⟩
  refine Machine.step_of_decode_error ?_
  rwa [Machine.presentedWord, hp]

/-! Where the encoder puts each operand (R60 to R64). -/

/-- The `page` field of a packed word is the low byte of its argument. -/
theorem packWord_pageField (op : BitVec 4) (odd : Bool) (page : Byte) :
    pageField (packWord op odd (page.setWidth 16)) = page := by
  apply BitVec.eq_of_getLsbD_eq
  intro i hi
  simp only [pageField, packWord]
  interval_cases i <;> simp

theorem packWord_enField (op : BitVec 4) (odd en : Bool) :
    enField (packWord op odd ((BitVec.ofBool en).setWidth 16)) = en := by
  simp [enField, packWord]

/-- The must-be-zero bits of the two operations with an address. -/
theorem packWord_mbz_addr (op : BitVec 4) (arg : BitVec 16) :
    (packWord op false arg).extractLsb' 16 12 = 0#12 := by
  apply BitVec.eq_of_getLsbD_eq
  intro i hi
  rw [packWord]
  interval_cases i <;> simp

/-- The must-be-zero bits between the flag and the page. -/
theorem packWord_mbz_page (op : BitVec 4) (odd : Bool) (page : Byte) :
    (packWord op odd (page.setWidth 16)).extractLsb' 8 8 = 0#8 := by
  apply BitVec.eq_of_getLsbD_eq
  intro i hi
  rw [packWord]
  interval_cases i <;> simp

/-- The must-be-zero bits above the enable bit. -/
theorem packWord_mbz_en (op : BitVec 4) (en : Bool) :
    (packWord op false ((BitVec.ofBool en).setWidth 16)).extractLsb' 1 27 = 0#27 := by
  apply BitVec.eq_of_getLsbD_eq
  intro i hi
  rw [packWord]
  interval_cases i <;> simp

/-- Settles O3, field by field of the packed word. -/
theorem encodingFields : Obligations.EncodingFields := by
  refine ⟨fun page odd => ⟨?_, ?_, ?_, ?_, ?_⟩, fun addr => ⟨?_, ?_, ?_⟩, fun addr => ⟨?_, ?_, ?_⟩,
    fun en => ⟨?_, ?_, ?_⟩, by decide, by decide, by decide, by decide, by decide⟩
  · exact packWord_opField 0x1#4 odd _
  · exact packWord_z1 0x1#4 odd _
  · exact packWord_oddField 0x1#4 odd _
  · exact packWord_mbz_page 0x1#4 odd page
  · exact packWord_pageField 0x1#4 odd page
  · exact packWord_opField 0x2#4 false addr
  · exact packWord_mbz_addr 0x2#4 addr
  · exact packWord_addrField 0x2#4 false addr
  · exact packWord_opField 0x3#4 false addr
  · exact packWord_mbz_addr 0x3#4 addr
  · exact packWord_addrField 0x3#4 false addr
  · exact packWord_opField 0x5#4 false _
  · exact packWord_mbz_en 0x5#4 en
  · exact packWord_enField 0x5#4 false en

end Sys2Proof
end

section
/-! PROOFS. The round trips of the encoding (30_encoding.md R67, R72): an encoded operation hits its own row and
its operands are read back; a word that hits a row agrees, field by field, with the encoding of the operation it
decodes to. -/

namespace Sys2Proof

/-- Every operand is read back from its field. -/
theorem withFields_encode (i : Instr) : i.withFields (encode i) = i := by
  cases i with
  | oamTrig page odd => simp [Instr.withFields, encode, packWord_pageField, packWord_oddField]
  | dmcTrig addr => simp [Instr.withFields, encode, packWord_addrField]
  | cpuRd addr => simp [Instr.withFields, encode, packWord_addrField]
  | enWrite en => simp [Instr.withFields, encode, packWord_enField]
  | _ => rfl

theorem hits_encode (i : Instr) : i.row.hits (encode i) = true := by
  cases i with
  | tick => exact Laws.EncodedWord.tick.1
  | oamTrig page odd => exact (Laws.EncodedWord.oamTrig page odd).1
  | dmcTrig addr => exact (Laws.EncodedWord.dmcTrig addr).1
  | cpuRd addr => exact (Laws.EncodedWord.cpuRd addr).1
  | stRead => exact Laws.EncodedWord.stRead.1
  | enWrite en => exact (Laws.EncodedWord.enWrite en).1
  | winStart => exact Laws.EncodedWord.winStart.1
  | winEnd => exact Laws.EncodedWord.winEnd.1
  | reset => exact Laws.EncodedWord.reset.1

theorem decodeWord_encode (i : Instr) : decodeWord (encode i) = .ok i := by
  rw [decodeWord_of_hits (hits_encode i), withFields_encode]

theorem extractLsb'_one_eq_iff {x y : CmdWord} (k : Nat) :
    x.extractLsb' k 1 = y.extractLsb' k 1 ↔ x.getLsbD k = y.getLsbD k := by
  simp [BitVec.eq_of_getLsbD_eq_iff]

/-- A word with an address operand is its `op` and its address. -/
theorem packWord_addr_of_fields {w : CmdWord} {op : BitVec 4} (hop : w.extractLsb' 28 4 = op)
    (hz : w.extractLsb' 16 12 = 0#12) : packWord op false (addrField w) = w :=
  cmdWord_ext_iff.mpr ⟨(extractLsb'_add_eq_iff 0 16 12).mpr
    ⟨packWord_addrField op false _, (packWord_mbz_addr op _).trans hz.symm⟩,
    (packWord_opField op false _).trans hop.symm⟩

/-- A word of the bulk-copy trigger is its `op`, its flag and its page. -/
theorem packWord_page_of_fields {w : CmdWord} {op : BitVec 4} (hop : w.extractLsb' 28 4 = op)
    (hz1 : w.extractLsb' 17 11 = 0#11) (hz : w.extractLsb' 8 8 = 0#8) :
    packWord op (oddField w) ((pageField w).setWidth 16) = w :=
  cmdWord_ext_iff.mpr ⟨(extractLsb'_add_eq_iff 0 17 11).mpr
    ⟨(extractLsb'_add_eq_iff 0 16 1).mpr ⟨(extractLsb'_add_eq_iff 0 8 8).mpr
      ⟨packWord_pageField op _ _, (packWord_mbz_page op _ _).trans hz.symm⟩,
      (extractLsb'_one_eq_iff 16).mpr (packWord_oddField op _ _)⟩,
      (packWord_z1 op _ _).trans hz1.symm⟩,
    (packWord_opField op _ _).trans hop.symm⟩

/-- A word of the enable write is its `op` and its bit. -/
theorem packWord_en_of_fields {w : CmdWord} {op : BitVec 4} (hop : w.extractLsb' 28 4 = op)
    (hz : w.extractLsb' 1 27 = 0#27) : packWord op false ((BitVec.ofBool (enField w)).setWidth 16) = w :=
  cmdWord_ext_iff.mpr ⟨(extractLsb'_add_eq_iff 0 1 27).mpr
    ⟨(extractLsb'_one_eq_iff 0).mpr (packWord_enField op false _), (packWord_mbz_en op _).trans hz.symm⟩,
    (packWord_opField op false _).trans hop.symm⟩

/-- A row without an operand is hit by its pattern alone. -/
theorem eq_pattern_of_hits {r : OpcodeRow} {w : CmdWord} (hm : r.mask = BitVec.allOnes 32)
    (h : r.hits w = true) : r.pattern = w := by
  rw [← hits_iff.mp h, hm, BitVec.and_allOnes]

/-- A word that hits a row is the encoding of the operation of that row with the word's own operands. -/
theorem encode_withFields_of_hits {w : CmdWord} {i : Instr} (h : i.row.hits w = true) :
    encode (i.withFields w) = w := by
  cases i with
  | oamTrig page odd =>
    obtain ⟨hop, hz1, hz⟩ := hits_rowOamTrig_iff.mp h
    exact packWord_page_of_fields hop hz1 hz
  | dmcTrig addr =>
    obtain ⟨hop, hz⟩ := (hits_addr_iff rowDmcTrig (by decide) (by decide) (by decide) (by decide)).mp h
    exact packWord_addr_of_fields hop hz
  | cpuRd addr =>
    obtain ⟨hop, hz⟩ := (hits_addr_iff rowCpuRd (by decide) (by decide) (by decide) (by decide)).mp h
    exact packWord_addr_of_fields hop hz
  | enWrite en =>
    obtain ⟨hop, hz⟩ := hits_rowEnWrite_iff.mp h
    exact packWord_en_of_fields hop hz
  | tick | stRead | winStart | winEnd | reset => exact eq_pattern_of_hits rfl h

theorem encode_of_decodeWord {w : CmdWord} {i : Instr} (h : decodeWord w = .ok i) : encode i = w := by
  obtain ⟨j, hj, hok⟩ | ⟨-, herr⟩ := decodeWord_cases w
  · obtain rfl := Except.ok.inj (h.symm.trans hok)
    exact encode_withFields_of_hits hj
  · rw [h] at herr
    cases herr

/-- Settles O1: an encoded operation hits its own row and its operands are read back; a word that decodes is
its row's pattern and operand fields, which is what the encoder writes. -/
theorem decodeEncodeRoundTrip : Obligations.DecodeEncodeRoundTrip :=
  ⟨decodeWord_encode, fun _ _ => encode_of_decodeWord⟩

/-- The bytes of a word are decoded as the word (R72). -/
theorem decodeBytes_bytesOfWord {w : CmdWord} {i : Instr} (h : decodeWord w = .ok i) (rest : List Byte) :
    decodeBytes (bytesOfWord w ++ rest) = .ok (i, rest) := by
  simp [bytesOfWord, decodeBytes, wordOfBytes_bytes, h]

/-- Settles O2: the bytes put back together are the word, which decodes to the operation. -/
theorem byteCarrierRoundTrip : Obligations.ByteCarrierRoundTrip :=
  fun i rest => ⟨decodeBytes_bytesOfWord (decodeWord_encode i) rest, rfl⟩

/-- Settles O6: seventeen fixed words, each decoded. -/
theorem workedEncodingsDecode : Obligations.WorkedEncodingsDecode := by
  unfold Obligations.WorkedEncodingsDecode
  decide

end Sys2Proof
end

section
/-! PROOFS. The layer the statements on operations stand on: the state an operation leaves and the state a sequence
leaves, as functions; and one equation for each kind of tick. -/

namespace Sys2Proof.Machine

/-! Operations and sequences as functions of the state. -/

/-- The state an operation leaves (00_scope.md R4: there is always one). -/
def perform : Instr → State → State
  | .tick => tick
  | .oamTrig page odd => startCopy page odd
  | .dmcTrig addr => startFetch addr
  | .cpuRd addr => reportRead addr
  | .stRead => readStatus
  | .enWrite en => writeEnable en
  | .winStart => windowStart
  | .winEnd => windowEnd
  | .reset => resetBlock

theorem exec_eq_next (i : Instr) (s : State) : exec i s = .next (perform i s) := by
  cases i <;> rfl

theorem eq_perform_of_exec {i : Instr} {s t : State} (h : exec i s = .next t) : t = perform i s :=
  exec_next_unique (exec_eq_next i s) h

/-- The state a sequence of operations leaves. -/
def performAll : List Instr → State → State
  | [], s => s
  | i :: is, s => performAll is (perform i (withdrawResponse s))

@[simp] theorem performAll_nil (s : State) : performAll [] s = s := rfl

@[simp] theorem performAll_cons (i : Instr) (is : List Instr) (s : State) :
    performAll (i :: is) s = performAll is (perform i (withdrawResponse s)) := rfl

theorem runOps_eq_next (ops : List Instr) (s : State) : runOps ops s = .next (performAll ops s) := by
  induction ops generalizing s with
  | nil => rfl
  | cons i is ih => rw [runOps_cons_next is (exec_eq_next i _), ih, performAll_cons]

theorem eq_performAll_of_runOps {ops : List Instr} {s t : State} (h : runOps ops s = .next t) :
    t = performAll ops s :=
  Host.Outcome.next.inj (h.symm.trans (runOps_eq_next ops s))

theorem performAll_append (is js : List Instr) (s : State) :
    performAll (is ++ js) s = performAll js (performAll is s) := by
  induction is generalizing s with
  | nil => rfl
  | cons i is ih => exact ih _

/-- What every operation of a sequence keeps holds at its end. -/
theorem performAll_induction (P : State → Prop) {ops : List Instr}
    (hstep : ∀ i ∈ ops, ∀ s, P s → P (perform i (withdrawResponse s))) {s : State} (hs : P s) :
    P (performAll ops s) := by
  induction ops generalizing s with
  | nil => exact hs
  | cons i is ih =>
    exact ih (fun j hj => hstep j (List.mem_cons_of_mem i hj)) (hstep i List.mem_cons_self s hs)

theorem performAll_replicate_tick (n : Nat) {s : State} (h : s.port.response = none) :
    performAll (List.replicate n .tick) s = ticks n s :=
  (eq_performAll_of_runOps (runOps_replicate_tick n s h)).symm

@[simp] theorem response_withdrawResponse (s : State) : (withdrawResponse s).port.response = none := rfl

/-! The tick, by its owner. -/

/-- The time base counts, and nothing else changes (42_arbitration_tick.md R120). -/
def clocked (s : State) : State := s.setNow (s.now + 1#64)

@[simp] theorem clocked_now (s : State) : (clocked s).now = s.now + 1#64 := rfl
@[simp] theorem clocked_oam (s : State) : (clocked s).oam = s.oam := rfl
@[simp] theorem clocked_dmc (s : State) : (clocked s).dmc = s.dmc := rfl
@[simp] theorem clocked_cl (s : State) : (clocked s).cl = s.cl := rfl
@[simp] theorem clocked_il (s : State) : (clocked s).il = s.il := rfl
@[simp] theorem clocked_env (s : State) : (clocked s).env = s.env := rfl
@[simp] theorem clocked_port (s : State) : (clocked s).port = s.port := rfl

theorem tick_of_idle {s : State} (hr : s.dmc.rdyLow = false) (ha : s.oam.active = false) :
    tick s = clocked s := by
  simp [tick, owner_of_idle hr ha, clocked]

theorem tick_of_active {s : State} (hr : s.dmc.rdyLow = false) (ha : s.oam.active = true) :
    tick s = oamStep (clocked s) := by
  simp [tick, owner_of_active hr ha, clocked]

theorem tick_of_rdyLow {s : State} (hr : s.dmc.rdyLow = true) : tick s = dmcTick (clocked s) := by
  simp [tick, owner_of_rdyLow hr, clocked]

/-! A tick of the bulk-copy engine, by what it does (40_bulk_copy_dma.md R81). -/

section BulkCopyTick
variable {s : State} (hr : s.dmc.rdyLow = false) (ha : s.oam.active = true)
include hr ha

theorem tick_of_owed (ho : s.cl.alignOwed = true) : tick s = resumeAlign (clocked s) := by
  simp [tick_of_active hr ha, oamStep, ho]

theorem tick_of_aligning (ho : s.cl.alignOwed = false) (hp : s.oam.phase = .aligning) :
    tick s = startupAlign (clocked s) := by
  simp [tick_of_active hr ha, oamStep, ho, hp]

theorem tick_of_reading (ho : s.cl.alignOwed = false) (hp : s.oam.phase = .reading) :
    tick s = readHalf (clocked s) := by
  simp [tick_of_active hr ha, oamStep, ho, hp]

theorem tick_of_writing (ho : s.cl.alignOwed = false) (hp : s.oam.phase = .writing) :
    tick s = writeHalf (clocked s) := by
  simp [tick_of_active hr ha, oamStep, ho, hp]

theorem tick_of_completing (ho : s.cl.alignOwed = false) (hp : s.oam.phase = .completing) :
    tick s = complete (clocked s) := by
  simp [tick_of_active hr ha, oamStep, ho, hp]

/-- The phases of an active engine that the invariants exclude here. -/
theorem tick_of_stuck (ho : s.cl.alignOwed = false) (hp : s.oam.phase = .idle ∨ s.oam.phase.isPaused = true) :
    tick s = clocked s := by
  rw [tick_of_active hr ha]
  unfold oamStep
  cases hq : s.oam.phase <;> simp_all [Phase.isPaused]

end BulkCopyTick

/-! A tick of the sample-fetch engine. -/

/-- What holding does: a half-cycle of an active engine is paused, and nothing else is touched
(42_arbitration_tick.md R122, R123). -/
theorem holdOam_trichotomy (s : State) :
    (s.oam.active = true ∧ s.oam.phase = .reading ∧ holdOam s = pauseInto .pausedDuringRead s) ∨
    (s.oam.active = true ∧ s.oam.phase = .writing ∧ holdOam s = pauseInto .pausedDuringWrite s) ∨
    ((s.oam.active = false ∨ s.oam.phase ≠ .reading ∧ s.oam.phase ≠ .writing) ∧ holdOam s = s) := by
  obtain ⟨ha, h⟩ | ⟨ha, h⟩ := holdOam_cases s
  · obtain ⟨hp, h'⟩ | ⟨hp, h'⟩ | ⟨hp, hp', h'⟩ := pauseOam_cases s
    · exact .inl ⟨ha, hp, h.trans h'⟩
    · exact .inr (.inl ⟨ha, hp, h.trans h'⟩)
    · exact .inr (.inr ⟨.inr ⟨hp, hp'⟩, h.trans h'⟩)
  · exact .inr (.inr ⟨.inl ha, h⟩)

/-- The three kinds of stall tick, from the state before it (42_arbitration_tick.md R122, 41_sample_fetch_dma.md
R102): hold, fetch and resume; hold, count and repeat the read; hold and count. -/
theorem tick_rdyLow_cases {s : State} (hr : s.dmc.rdyLow = true) :
    (s.dmc.stallCyclesRemaining.val ≤ 1 ∧ tick s = resumeOam (fetchCycle (holdOam (clocked s)))) ∨
    (2 ≤ s.dmc.stallCyclesRemaining.val ∧ s.env.repeatReadRev = true ∧
      s.dmc.stallCyclesRemaining.val ≤ 3 ∧ tick s = repeatRead (countStall (holdOam (clocked s)))) ∨
    (2 ≤ s.dmc.stallCyclesRemaining.val ∧
      (s.env.repeatReadRev = false ∨ s.dmc.stallCyclesRemaining.val = 4) ∧
      tick s = countStall (holdOam (clocked s))) := by
  rw [tick_of_rdyLow hr]
  exact @dmcTick_cases (clocked s) hr

theorem tick_of_fetch {s : State} (hr : s.dmc.rdyLow = true) (h1 : s.dmc.stallCyclesRemaining.val ≤ 1) :
    tick s = resumeOam (fetchCycle (holdOam (clocked s))) := by
  obtain ⟨-, h⟩ | ⟨h2, -⟩ | ⟨h2, -⟩ := tick_rdyLow_cases hr
  · exact h
  · omega
  · omega

theorem tick_of_repeat {s : State} (hr : s.dmc.rdyLow = true) (h2 : 2 ≤ s.dmc.stallCyclesRemaining.val)
    (hv : s.env.repeatReadRev = true) (h3 : s.dmc.stallCyclesRemaining.val ≤ 3) :
    tick s = repeatRead (countStall (holdOam (clocked s))) := by
  obtain ⟨h1, -⟩ | ⟨-, -, -, h⟩ | ⟨-, hx | hx, -⟩ := tick_rdyLow_cases hr
  · omega
  · exact h
  · exact absurd (hv.symm.trans hx) (by decide)
  · omega

theorem tick_of_count {s : State} (hr : s.dmc.rdyLow = true) (h2 : 2 ≤ s.dmc.stallCyclesRemaining.val)
    (hx : s.env.repeatReadRev = false ∨ s.dmc.stallCyclesRemaining.val = 4) :
    tick s = countStall (holdOam (clocked s)) := by
  obtain ⟨h1, -⟩ | ⟨-, hv, h3, -⟩ | ⟨-, -, h⟩ := tick_rdyLow_cases hr
  · omega
  · obtain hx | hx := hx
    · exact absurd (hx.symm.trans hv) (by decide)
    · omega
  · exact h

end Sys2Proof.Machine
end

section
/-! PROOFS. The invariants of 10_state.md section 9 that hold whatever the time base does: the bulk-copy record by
its phase, the engines and the owed alignment, the Interrupt Ledger, the memories. Each operation keeps each. -/

namespace Sys2Proof.Machine

/-! The bulk-copy record (R35). -/

/-- Byte `offset` is next to be read. -/
def Oam.AtRead (o : Oam) : Prop :=
  o.currentCycle.toNat % 2 = 0 ∧ o.currentCycle.toNat ≤ 510 ∧ o.currentOffset.toNat = o.currentCycle.toNat / 2

/-- Byte `offset` is next to be written. -/
def Oam.AtWrite (o : Oam) : Prop :=
  o.currentCycle.toNat % 2 = 1 ∧ o.currentCycle.toNat ≤ 511 ∧
    o.currentOffset.toNat = (o.currentCycle.toNat - 1) / 2

/-- R35 read phase by phase: what a record in each phase looks like. -/
def Oam.Wf (o : Oam) : Prop :=
  match o.phase with
  | .idle => o = Oam.reset
  | .aligning => o.active = true ∧ o.needsAlignment = true ∧ o.currentCycle = 0 ∧ o.currentOffset = 0
  | .reading => o.active = true ∧ o.needsAlignment = false ∧ o.AtRead
  | .pausedDuringRead => o.active = true ∧ o.needsAlignment = false ∧ o.AtRead
  | .writing => o.active = true ∧ o.needsAlignment = false ∧ o.AtWrite
  | .pausedDuringWrite => o.active = true ∧ o.needsAlignment = false ∧ o.AtWrite
  | .completing => o.active = true ∧ o.needsAlignment = false ∧ o.currentCycle = 512 ∧ o.currentOffset = 0

theorem bulkCopyInv_iff (s : State) : BulkCopyInv s ↔ s.oam.Wf := by
  unfold BulkCopyInv
  generalize s.oam = o
  obtain ⟨active, page, offset, cycle, needs, temp, phase⟩ := o
  cases phase <;> simp [Oam.Wf, Oam.AtRead, Oam.AtWrite, Oam.reset, Phase.code]
  tauto

/-! What R35 says in each phase of an active engine. -/

theorem Oam.Wf.of_aligning {o : Oam} (h : o.Wf) (hp : o.phase = .aligning) :
    o.active = true ∧ o.needsAlignment = true ∧ o.currentCycle = 0 ∧ o.currentOffset = 0 := by
  unfold Oam.Wf at h
  rwa [hp] at h

theorem Oam.Wf.of_reading {o : Oam} (h : o.Wf) (hp : o.phase = .reading) :
    o.active = true ∧ o.needsAlignment = false ∧ o.AtRead := by
  unfold Oam.Wf at h
  rwa [hp] at h

theorem Oam.Wf.of_writing {o : Oam} (h : o.Wf) (hp : o.phase = .writing) :
    o.active = true ∧ o.needsAlignment = false ∧ o.AtWrite := by
  unfold Oam.Wf at h
  rwa [hp] at h

theorem Oam.Wf.of_completing {o : Oam} (h : o.Wf) (hp : o.phase = .completing) :
    o.active = true ∧ o.needsAlignment = false ∧ o.currentCycle = 512 ∧ o.currentOffset = 0 := by
  unfold Oam.Wf at h
  rwa [hp] at h

theorem Oam.wf_reset : Oam.reset.Wf := rfl

theorem Oam.wf_fresh (page : Byte) (odd : Bool) : (freshTransfer page odd).Wf := by
  cases odd <;> simp [freshTransfer, Oam.Wf, Oam.AtRead]

/-- The half-cycles never count past the last one. -/
theorem Oam.Wf.cycle_le {o : Oam} (h : o.Wf) : o.currentCycle.toNat ≤ 512 := by
  unfold Oam.Wf at h
  split at h
  next => rw [h]; decide
  next => obtain ⟨-, -, hc, -⟩ := h; rw [hc]; decide
  next => obtain ⟨-, -, -, hle, -⟩ := h; omega
  next => obtain ⟨-, -, -, hle, -⟩ := h; omega
  next => obtain ⟨-, -, -, hle, -⟩ := h; omega
  next => obtain ⟨-, -, -, hle, -⟩ := h; omega
  next => obtain ⟨-, -, hc, -⟩ := h; rw [hc]; decide

theorem Oam.active_iff_of_wf {o : Oam} (h : o.Wf) : o.active = true ↔ o.phase ≠ .idle := by
  unfold Oam.Wf at h
  cases hp : o.phase <;> simp_all [Oam.reset]

/-! A paused phase differs from its half-cycle in the phase alone. -/

theorem Oam.wf_pause_read {o : Oam} (hp : o.phase = .reading) (h : o.Wf) :
    { o with phase := .pausedDuringRead }.Wf := by
  unfold Oam.Wf at h
  rwa [hp] at h

theorem Oam.wf_pause_write {o : Oam} (hp : o.phase = .writing) (h : o.Wf) :
    { o with phase := .pausedDuringWrite }.Wf := by
  unfold Oam.Wf at h
  rwa [hp] at h

theorem Oam.wf_resume_read {o : Oam} (hp : o.phase = .pausedDuringRead) (h : o.Wf) :
    { o with phase := .reading }.Wf := by
  unfold Oam.Wf at h
  rwa [hp] at h

theorem Oam.wf_resume_write {o : Oam} (hp : o.phase = .pausedDuringWrite) (h : o.Wf) :
    { o with phase := .writing }.Wf := by
  unfold Oam.Wf at h
  rwa [hp] at h

theorem holdOam_wf {s : State} (h : s.oam.Wf) : (holdOam s).oam.Wf := by
  obtain ⟨-, hp, he⟩ | ⟨-, hp, he⟩ | ⟨-, he⟩ := holdOam_trichotomy s <;> rw [he]
  · exact Oam.wf_pause_read hp h
  · exact Oam.wf_pause_write hp h
  · exact h

theorem resumeOam_wf {s : State} (h : s.oam.Wf) : (resumeOam s).oam.Wf := by
  obtain ⟨hp, he⟩ | ⟨hp, he⟩ | ⟨-, he⟩ := resumeOam_cases s <;> rw [he]
  · exact Oam.wf_resume_read hp h
  · exact Oam.wf_resume_write hp h
  · exact h

theorem startupAlign_wf {s : State} (hp : s.oam.phase = .aligning) (h : s.oam.Wf) :
    (startupAlign s).oam.Wf := by
  obtain ⟨ha, -, hc, ho⟩ := h.of_aligning hp
  simp [startupAlign, Oam.Wf, Oam.AtRead, ha, hc, ho]

theorem readHalf_wf {s : State} (hp : s.oam.phase = .reading) (h : s.oam.Wf) : (readHalf s).oam.Wf := by
  obtain ⟨ha, hn, heven, hle, hoff⟩ := h.of_reading hp
  refine ⟨ha, hn, ?_, ?_, ?_⟩ <;> simp [readHalf] <;> omega

theorem writeHalf_wf {s : State} (hp : s.oam.phase = .writing) (h : s.oam.Wf) : (writeHalf s).oam.Wf := by
  obtain ⟨ha, hn, hodd, hle, hoff⟩ := h.of_writing hp
  by_cases hlast : s.oam.currentCycle + 1#16 = Config.transferHalfCycles
  · have hcycle : s.oam.currentCycle.toNat = 511 := by
      have := congrArg BitVec.toNat hlast
      simp [Config.transferHalfCycles] at this
      omega
    have hwrap : s.oam.currentOffset + 1#8 = 0 := by
      apply BitVec.eq_of_toNat_eq
      simp
      omega
    simp [writeHalf, Oam.Wf, hlast, Config.transferHalfCycles, ha, hn, hwrap]
  · have hne : s.oam.currentCycle.toNat ≠ 511 := by
      intro hc
      exact hlast (BitVec.eq_of_toNat_eq (by simp [hc, Config.transferHalfCycles]))
    simp [writeHalf, Oam.Wf, hlast, Oam.AtRead, ha, hn]
    omega

theorem oamStep_wf {s : State} (h : s.oam.Wf) : (oamStep s).oam.Wf := by
  obtain ⟨-, he⟩ | ⟨-, hp, he⟩ | ⟨-, hp, he⟩ | ⟨-, hp, he⟩ | ⟨-, hp, he⟩ | ⟨-, -, he⟩ :=
    oamStep_cases s <;> rw [he]
  · exact h
  · exact startupAlign_wf hp h
  · exact readHalf_wf hp h
  · exact writeHalf_wf hp h
  · exact Oam.wf_reset
  · exact h

theorem tick_wf {s : State} (h : s.oam.Wf) : (tick s).oam.Wf := by
  obtain ⟨hr, -⟩ | ⟨-, -, he⟩ | ⟨-, -, he⟩ := tick_cases s
  · have hhold : (holdOam (clocked s)).oam.Wf := holdOam_wf h
    obtain ⟨-, he⟩ | ⟨-, -, -, he⟩ | ⟨-, -, he⟩ := tick_rdyLow_cases hr
    · exact he ▸ resumeOam_wf hhold
    · exact he ▸ hhold
    · exact he ▸ hhold
  · exact he ▸ oamStep_wf h
  · exact he ▸ h

theorem perform_wf (i : Instr) {s : State} (h : s.oam.Wf) : (perform i s).oam.Wf := by
  cases i with
  | tick => exact tick_wf h
  | oamTrig page odd => exact Oam.wf_fresh page odd
  | cpuRd addr => rwa [perform, reportRead_oam]
  | reset => exact Oam.wf_reset
  | _ => exact h

/-! The engines and the owed alignment (R36 (a), (b), (d)). -/

/-- The engine is in a half-cycle of a byte, held or not. -/
def Phase.isHalfCycle : Phase → Bool
  | .reading => true
  | .writing => true
  | .pausedDuringRead => true
  | .pausedDuringWrite => true
  | .idle => false
  | .aligning => false
  | .completing => false

/-- R36 (a): a stall in progress is a count that is not 0. -/
def StallInv (s : State) : Prop := s.dmc.rdyLow = true ↔ s.dmc.stallCyclesRemaining ≠ 0

/-- R36 (b): only a stall holds the bulk-copy engine. -/
def PausedInv (s : State) : Prop := s.oam.phase.isPaused = true → s.dmc.rdyLow = true

/-- R36 (d): an alignment cycle is owed only to a half-cycle. -/
def OwedInv (s : State) : Prop := s.cl.alignOwed = true → s.oam.phase.isHalfCycle = true

theorem engineInv_iff {s : State} (h : s.oam.Wf) :
    EngineInv s ↔ StallInv s ∧ PausedInv s ∧ OwedInv s := by
  have hcount : s.dmc.stallCyclesRemaining.val ≤ 4 := by omega
  have hactive := Oam.active_iff_of_wf h
  have hphase : (s.oam.active = true ∧ (s.oam.phase = .reading ∨ s.oam.phase = .writing ∨
      s.oam.phase = .pausedDuringRead ∨ s.oam.phase = .pausedDuringWrite)) ↔
      s.oam.phase.isHalfCycle = true := by
    rw [hactive]
    cases s.oam.phase <;> simp [Phase.isHalfCycle]
  simp only [EngineInv, StallInv, PausedInv, OwedInv, hphase, hcount, true_and]

theorem stallPred_ne_zero {r : Fin 5} (h : 2 ≤ r.val) : stallPred r ≠ 0 := by
  intro h0
  have := congrArg Fin.val h0
  simp [stallPred] at this
  omega

theorem countStall_stallInv {s : State} (hr : s.dmc.rdyLow = true) (h2 : 2 ≤ s.dmc.stallCyclesRemaining.val) :
    StallInv (countStall s) := by
  simp [StallInv, countStall, hr, stallPred_ne_zero h2]

theorem fetchCycle_stallInv (s : State) : StallInv (fetchCycle s) := by
  simp [StallInv, fetchCycle]

theorem tick_stallInv {s : State} (h : StallInv s) : StallInv (tick s) := by
  cases hr : s.dmc.rdyLow with
  | true =>
    have hrh : (holdOam (clocked s)).dmc.rdyLow = true := by simpa using hr
    obtain ⟨-, he⟩ | ⟨h2, -, -, he⟩ | ⟨h2, -, he⟩ := tick_rdyLow_cases hr <;> rw [he]
    · rw [StallInv, (resumeOam_frame _).2.1]
      exact fetchCycle_stallInv _
    · exact countStall_stallInv hrh (by simpa using h2)
    · exact countStall_stallInv hrh (by simpa using h2)
  | false =>
    obtain ⟨hr', -⟩ | ⟨-, -, he⟩ | ⟨-, -, he⟩ := tick_cases s
    · exact absurd (hr.symm.trans hr') (by decide)
    · rw [he, StallInv, (oamStep_frame _).2.1]
      exact h
    · rw [he]
      exact h

theorem perform_stallInv (i : Instr) {s : State} (h : StallInv s) : StallInv (perform i s) := by
  cases i with
  | tick => exact tick_stallInv h
  | dmcTrig addr => simp [StallInv, perform, startFetch, Config.stallLen]
  | cpuRd addr =>
    obtain ⟨-, he⟩ | ⟨-, he⟩ := reportRead_cases addr s <;> rw [perform, he] <;> exact h
  | reset => simp [StallInv, perform, resetBlock, Dmc.reset]
  | _ => exact h

/-! Paused phases. -/

theorem resumeOam_not_paused (s : State) : (resumeOam s).oam.phase.isPaused = false := by
  obtain ⟨-, he⟩ | ⟨-, he⟩ | ⟨hp, he⟩ := resumeOam_cases s <;> rw [he]
  · rfl
  · rfl
  · exact hp

theorem oamStep_not_paused {s : State} (h : s.oam.phase.isPaused = false) :
    (oamStep s).oam.phase.isPaused = false := by
  obtain ⟨-, he⟩ | ⟨-, -, he⟩ | ⟨-, -, he⟩ | ⟨-, -, he⟩ | ⟨-, -, he⟩ | ⟨-, -, he⟩ := oamStep_cases s <;> rw [he]
  · exact h
  · rfl
  · rfl
  · simp only [writeHalf, State.setOam_oam]
    split <;> rfl
  · rfl
  · exact h

theorem tick_pausedInv {s : State} (h : PausedInv s) : PausedInv (tick s) := by
  cases hr : s.dmc.rdyLow with
  | true =>
    obtain ⟨-, he⟩ | ⟨-, -, -, he⟩ | ⟨-, -, he⟩ := tick_rdyLow_cases hr <;> rw [he]
    · simp [PausedInv, resumeOam_not_paused]
    · simp [PausedInv, repeatRead, countStall, hr]
    · simp [PausedInv, countStall, hr]
  | false =>
    have hp : s.oam.phase.isPaused = false := by simpa [PausedInv, hr] using h
    obtain ⟨hr', -⟩ | ⟨-, -, he⟩ | ⟨-, -, he⟩ := tick_cases s
    · exact absurd (hr.symm.trans hr') (by decide)
    · rw [he, PausedInv, @oamStep_not_paused (s.setNow (s.now + 1#64)) hp]
      simp
    · rw [he]
      exact h

theorem perform_pausedInv (i : Instr) {s : State} (h : PausedInv s) : PausedInv (perform i s) := by
  cases i with
  | tick => exact tick_pausedInv h
  | oamTrig page odd => cases odd <;> simp [PausedInv, perform, startCopy, freshTransfer, Phase.isPaused]
  | dmcTrig addr => simp [PausedInv, perform]
  | cpuRd addr =>
    obtain ⟨-, he⟩ | ⟨-, he⟩ := reportRead_cases addr s <;> rw [perform, he] <;> exact h
  | reset => simp [PausedInv, perform, resetBlock, Oam.reset, Phase.isPaused]
  | _ => exact h

/-! The owed alignment. -/

@[simp] theorem holdOam_alignOwed (s : State) : (holdOam s).cl.alignOwed = s.cl.alignOwed := by
  obtain ⟨-, -, he⟩ | ⟨-, -, he⟩ | ⟨-, he⟩ := holdOam_trichotomy s <;> rw [he] <;> rfl

theorem holdOam_owedInv {s : State} (h : OwedInv s) : OwedInv (holdOam s) := by
  obtain ⟨-, -, he⟩ | ⟨-, -, he⟩ | ⟨-, he⟩ := holdOam_trichotomy s <;> rw [he]
  · exact fun _ => rfl
  · exact fun _ => rfl
  · exact h

theorem resumeOam_owedInv {s : State} (h : OwedInv s) : OwedInv (resumeOam s) := by
  obtain ⟨-, he⟩ | ⟨-, he⟩ | ⟨-, he⟩ := resumeOam_cases s <;> rw [he]
  · exact fun _ => rfl
  · exact fun _ => rfl
  · exact h

@[simp] theorem oamStep_alignOwed (s : State) : (oamStep s).cl.alignOwed = false := by
  obtain ⟨-, -, -, -, -, -, hcl⟩ := oamStep_frame s
  rw [hcl]

theorem tick_owedInv {s : State} (h : OwedInv s) : OwedInv (tick s) := by
  obtain ⟨hr, -⟩ | ⟨-, -, he⟩ | ⟨-, -, he⟩ := tick_cases s
  · have hhold : OwedInv (holdOam (clocked s)) := holdOam_owedInv h
    obtain ⟨-, he⟩ | ⟨-, -, -, he⟩ | ⟨-, -, he⟩ := tick_rdyLow_cases hr
    · exact he ▸ @resumeOam_owedInv (fetchCycle (holdOam (clocked s))) hhold
    · exact he ▸ hhold
    · exact he ▸ hhold
  · simp [he, OwedInv]
  · exact he ▸ h

theorem perform_owedInv (i : Instr) {s : State} (h : OwedInv s) : OwedInv (perform i s) := by
  cases i with
  | tick => exact tick_owedInv h
  | oamTrig page odd => simp [OwedInv, perform, startCopy, ledgerAtTrigger]
  | cpuRd addr =>
    obtain ⟨-, he⟩ | ⟨-, he⟩ := reportRead_cases addr s <;> rw [perform, he] <;> exact h
  | reset => simp [OwedInv, perform, resetBlock, ConflictLedger.reset]
  | _ => exact h

/-! The Interrupt Ledger (R37). -/

/-- R37 (b): the flag is 1 only inside the window. -/
def FlagInv (l : InterruptLedger) : Prop := l.flag = true → l.spanActive = true

theorem perform_flagInv (i : Instr) {s : State} (h : FlagInv s.il) : FlagInv (perform i s).il := by
  cases i with
  | stRead => simp [FlagInv, perform, readStatus, clearFlag]
  | winStart => simp [FlagInv, perform, windowStart]
  | winEnd => simp [FlagInv, perform, windowEnd, clearFlag]
  | reset => simp [FlagInv, perform, resetBlock, InterruptLedger.reset]
  | enWrite en => exact h
  | tick => rwa [perform, tick_il]
  | cpuRd addr => rwa [perform, reportRead_il]
  | _ => exact h

/-! The memories. -/

/-- A tick leaves the secondary memory as it was, or writes at the destination pointer. -/
theorem tick_sec_cases (s : State) :
    (tick s).env.sec = s.env.sec ∨
    (tick s).env.sec = Memory.write s.env.sec s.env.destPtr.toNat s.oam.tempValue := by
  obtain ⟨-, he⟩ | ⟨-, -, he⟩ | ⟨-, -, he⟩ := tick_cases s <;> rw [he]
  · obtain ⟨-, -, -, -, hsec, -⟩ := dmcTick_frame (s.setNow (s.now + 1#64))
    exact .inl hsec
  · obtain ⟨-, he⟩ | ⟨-, -, he⟩ | ⟨-, -, he⟩ | ⟨-, -, he⟩ | ⟨-, -, he⟩ | ⟨-, -, he⟩ :=
      oamStep_cases (s.setNow (s.now + 1#64)) <;> rw [he]
    · exact .inl rfl
    · exact .inl rfl
    · exact .inl rfl
    · exact .inr rfl
    · exact .inl rfl
    · exact .inl rfl
  · exact .inl rfl

/-- Only a tick touches the surroundings (20_memory.md R44). -/
theorem perform_env {i : Instr} (hi : i ≠ .tick) (s : State) : (perform i s).env = s.env := by
  cases i with
  | tick => exact absurd rfl hi
  | cpuRd addr => exact reportRead_env addr s
  | _ => rfl

theorem perform_memoryInv (i : Instr) {s : State} (h : MemoryInv s) : MemoryInv (perform i s) := by
  by_cases hi : i = .tick
  · subst hi
    obtain ⟨hmain, hmain', hsec, hsec'⟩ := h
    refine ⟨by rwa [perform, tick_main], by rwa [perform, tick_main], ?_, ?_⟩ <;>
      obtain he | he := tick_sec_cases s <;> rw [perform, he]
    · exact hsec
    · exact Memory.write_wf _ _ hsec
    · exact hsec'
    · exact Memory.write_within _ hsec' s.env.destPtr.isLt
  · rwa [MemoryInv, perform_env hi]

/-! All of them. -/

/-- The invariants as the lemmas above have them. -/
theorem inv_iff (s : State) : Inv s ↔
    s.oam.Wf ∧ (StallInv s ∧ PausedInv s ∧ OwedInv s) ∧ (s.il.LineSettled ∧ FlagInv s.il) ∧ MemoryInv s := by
  rw [Inv, bulkCopyInv_iff]
  exact and_congr_right fun hwf => and_congr_left fun _ => engineInv_iff hwf

theorem perform_inv (i : Instr) {s : State} (h : Inv s) : Inv (perform i s) := by
  rw [inv_iff] at h ⊢
  obtain ⟨hwf, ⟨hstall, hpaused, howed⟩, ⟨hline, hflag⟩, hmem⟩ := h
  exact ⟨perform_wf i hwf, ⟨perform_stallInv i hstall, perform_pausedInv i hpaused, perform_owedInv i howed⟩,
    ⟨exec_keeps_lineSettled hline (exec_eq_next i s), perform_flagInv i hflag⟩, perform_memoryInv i hmem⟩

/-- A step performs an operation on the state with the word taken. -/
theorem exists_perform_of_step {s t : State} (h : step s = .next t) : ∃ i, t = perform i (takeWord s) := by
  obtain ⟨i, -, hi⟩ := step_next_inversion h
  exact ⟨i, eq_perform_of_exec hi⟩

/-- Settles O48: taking the word touches nothing the invariants speak of, and every operation keeps them. -/
theorem stepKeepsInvariants : Obligations.StepKeepsInvariants := by
  intro s t hs h
  obtain ⟨i, rfl⟩ := exists_perform_of_step h
  exact @perform_inv i (takeWord s) hs

/-- Settles O12: every clause is about the fixed values of the reset state. -/
theorem resetStateMeetsInvariants : Obligations.ResetStateMeetsInvariants := by
  exact ⟨by decide, by decide, rfl⟩

end Sys2Proof.Machine
end

section
/-! PROOFS. The stamps and the bits they record (10_state.md R36 (c), 42_arbitration_tick.md R128,
43_interrupt_ledger.md R160): one invariant for each pair of stamps, kept by every operation while the time base
does not wrap. -/

namespace Sys2Proof.Machine

/-- Short of the wrap, the tick's own stamp is later than every stamp taken before it. -/
theorem lt_succ_of_ne_lastTick {now v : Stamp} (hn : now ≠ lastTick) (hv : v ≤ now) : v < now + 1#64 := by
  have hne : now.toNat ≠ 2 ^ 64 - 1 := fun h => hn (BitVec.eq_of_toNat_eq (h.trans (by decide)))
  bv_omega

theorem le_succ_of_ne_lastTick {now v : Stamp} (hn : now ≠ lastTick) (hv : v ≤ now) : v ≤ now + 1#64 :=
  BitVec.le_of_lt (lt_succ_of_ne_lastTick hn hv)

/-! The pause and the resume (R36 (c)). -/

/-- A pause is the later of its two stamps exactly while it lasts. -/
def PauseStamps (s : State) : Prop :=
  s.cl.oamPauseCycle ≤ s.now ∧ s.cl.oamResumeCycle ≤ s.now ∧
    (s.oam.phase.isPaused = true ↔ s.cl.oamResumeCycle < s.cl.oamPauseCycle)

theorem holdOam_pauseStamps {s : State} (h : PauseStamps s) (hlt : s.cl.oamResumeCycle < s.now) :
    PauseStamps (holdOam s) := by
  obtain ⟨hpause, hresume, hiff⟩ := h
  obtain ⟨-, -, he⟩ | ⟨-, -, he⟩ | ⟨-, he⟩ := holdOam_trichotomy s <;> rw [he]
  · exact ⟨BitVec.le_refl _, hresume, by simp [pauseInto, Phase.isPaused, hlt]⟩
  · exact ⟨BitVec.le_refl _, hresume, by simp [pauseInto, Phase.isPaused, hlt]⟩
  · exact ⟨hpause, hresume, hiff⟩

theorem resumeOam_pauseStamps {s : State} (h : PauseStamps s) : PauseStamps (resumeOam s) := by
  obtain ⟨hpause, hresume, hiff⟩ := h
  obtain ⟨-, he⟩ | ⟨-, he⟩ | ⟨-, he⟩ := resumeOam_cases s <;> rw [he]
  · exact ⟨hpause, BitVec.le_refl _, by simpa [resumeInto, Phase.isPaused] using hpause⟩
  · exact ⟨hpause, BitVec.le_refl _, by simpa [resumeInto, Phase.isPaused] using hpause⟩
  · exact ⟨hpause, hresume, hiff⟩

/-- A bulk-copy step neither enters nor leaves a paused phase. -/
theorem oamStep_isPaused (s : State) : (oamStep s).oam.phase.isPaused = s.oam.phase.isPaused := by
  cases hp : s.oam.phase.isPaused with
  | false => exact oamStep_not_paused hp
  | true =>
    have hphase : s.oam.phase = .pausedDuringRead ∨ s.oam.phase = .pausedDuringWrite := by
      cases hq : s.oam.phase <;> simp_all [Phase.isPaused]
    have hstep : (oamStep s).oam = s.oam := by
      obtain hq | hq := hphase <;> cases ho : s.cl.alignOwed <;> simp [oamStep, ho, hq, resumeAlign]
    rw [hstep, hp]

theorem oamStep_pauseStamps {s : State} (h : PauseStamps s) : PauseStamps (oamStep s) := by
  obtain ⟨hnow, -, -, -, -, -, hcl⟩ := oamStep_frame s
  rwa [PauseStamps, hnow, hcl, oamStep_isPaused]

theorem clocked_pauseStamps {s : State} (hn : s.now ≠ lastTick) (h : PauseStamps s) :
    PauseStamps (clocked s) := by
  obtain ⟨hpause, hresume, hiff⟩ := h
  exact ⟨le_succ_of_ne_lastTick hn hpause, le_succ_of_ne_lastTick hn hresume, hiff⟩

theorem tick_pauseStamps {s : State} (hn : s.now ≠ lastTick) (h : PauseStamps s) : PauseStamps (tick s) := by
  have hclocked := clocked_pauseStamps hn h
  obtain ⟨hr, -⟩ | ⟨-, -, he⟩ | ⟨-, -, he⟩ := tick_cases s
  · have hhold := holdOam_pauseStamps hclocked (lt_succ_of_ne_lastTick hn h.2.1)
    obtain ⟨-, he⟩ | ⟨-, -, -, he⟩ | ⟨-, -, he⟩ := tick_rdyLow_cases hr
    · exact he ▸ @resumeOam_pauseStamps (fetchCycle (holdOam (clocked s))) hhold
    · exact he ▸ hhold
    · exact he ▸ hhold
  · exact he ▸ oamStep_pauseStamps hclocked
  · exact he ▸ hclocked

theorem startCopy_pauseStamps (page : Byte) (odd : Bool) {s : State} (h : PauseStamps s) :
    PauseStamps (startCopy page odd s) := by
  obtain ⟨hpause, hresume, hiff⟩ := h
  have hfresh : (freshTransfer page odd).phase.isPaused = false := by cases odd <;> rfl
  cases hp : s.oam.phase.isPaused with
  | true =>
    refine ⟨hpause, ?_, ?_⟩ <;> simp [startCopy, ledgerAtTrigger, hp, hfresh]
    exact hpause
  | false =>
    refine ⟨hpause, ?_, ?_⟩ <;> simp [startCopy, ledgerAtTrigger, hp, hfresh]
    · exact hresume
    · simpa [hp] using hiff

theorem reset_pauseStamps : PauseStamps State.reset := by
  unfold PauseStamps
  decide

theorem perform_pauseStamps (i : Instr) {s : State} (hn : s.now ≠ lastTick) (h : PauseStamps s) :
    PauseStamps (perform i s) := by
  cases i with
  | tick => exact tick_pauseStamps hn h
  | oamTrig page odd => exact startCopy_pauseStamps page odd h
  | cpuRd addr => rwa [PauseStamps, perform, reportRead_now, reportRead_oam, reportRead_cl]
  | reset => exact reset_pauseStamps
  | _ => exact h

/-! The stall (42_arbitration_tick.md R128). -/

/-- The later of the two stamps is that of the bit's last change. -/
def StallStamps (s : State) : Prop :=
  s.cl.dmcActiveCycle ≤ s.now ∧ s.cl.dmcInactiveCycle ≤ s.now ∧
    (s.dmc.rdyLow = true → s.cl.dmcInactiveCycle ≤ s.cl.dmcActiveCycle) ∧
    (s.dmc.rdyLow = false → s.cl.dmcActiveCycle ≤ s.cl.dmcInactiveCycle)

/-- Holding touches none of what the stamps of the stall speak of. -/
theorem holdOam_stallStamps {s : State} (h : StallStamps s) : StallStamps (holdOam s) := by
  obtain ⟨-, -, he⟩ | ⟨-, -, he⟩ | ⟨-, he⟩ := holdOam_trichotomy s <;> rw [he] <;> exact h

theorem resumeOam_stallStamps {s : State} (h : StallStamps s) : StallStamps (resumeOam s) := by
  obtain ⟨-, he⟩ | ⟨-, he⟩ | ⟨-, he⟩ := resumeOam_cases s <;> rw [he] <;> exact h

theorem fetchCycle_stallStamps {s : State} (h : StallStamps s) : StallStamps (fetchCycle s) := by
  obtain ⟨hactive, -⟩ := h
  exact ⟨hactive, BitVec.le_refl _, by simp [fetchCycle], fun _ => hactive⟩

theorem oamStep_stallStamps {s : State} (h : StallStamps s) : StallStamps (oamStep s) := by
  obtain ⟨hnow, hdmc, -, -, -, -, hcl⟩ := oamStep_frame s
  rwa [StallStamps, hnow, hdmc, hcl]

theorem clocked_stallStamps {s : State} (hn : s.now ≠ lastTick) (h : StallStamps s) :
    StallStamps (clocked s) := by
  obtain ⟨hactive, hinactive, hlow, hhigh⟩ := h
  exact ⟨le_succ_of_ne_lastTick hn hactive, le_succ_of_ne_lastTick hn hinactive, hlow, hhigh⟩

theorem tick_stallStamps {s : State} (hn : s.now ≠ lastTick) (h : StallStamps s) : StallStamps (tick s) := by
  have hclocked := clocked_stallStamps hn h
  obtain ⟨hr, -⟩ | ⟨-, -, he⟩ | ⟨-, -, he⟩ := tick_cases s
  · have hhold := holdOam_stallStamps hclocked
    obtain ⟨-, he⟩ | ⟨-, -, -, he⟩ | ⟨-, -, he⟩ := tick_rdyLow_cases hr
    · exact he ▸ resumeOam_stallStamps (fetchCycle_stallStamps hhold)
    · exact he ▸ hhold
    · exact he ▸ hhold
  · exact he ▸ oamStep_stallStamps hclocked
  · exact he ▸ hclocked

theorem startFetch_stallStamps (addr : Addr) {s : State} (h : StallStamps s) :
    StallStamps (startFetch addr s) := by
  obtain ⟨hactive, hinactive, hlow, -⟩ := h
  cases hr : s.dmc.rdyLow with
  | true =>
    exact ⟨by simpa [startFetch, hr], hinactive, by simpa [startFetch, hr] using hlow hr, by simp [startFetch]⟩
  | false => exact ⟨by simp [startFetch, hr], hinactive, by simpa [startFetch, hr], by simp [startFetch]⟩

theorem reset_stallStamps : StallStamps State.reset := by
  unfold StallStamps
  decide

theorem perform_stallStamps (i : Instr) {s : State} (hn : s.now ≠ lastTick) (h : StallStamps s) :
    StallStamps (perform i s) := by
  cases i with
  | tick => exact tick_stallStamps hn h
  | dmcTrig addr => exact startFetch_stallStamps addr h
  | cpuRd addr =>
    obtain ⟨-, he⟩ | ⟨-, he⟩ := reportRead_cases addr s <;> rw [perform, he] <;> exact h
  | reset => exact reset_stallStamps
  | _ => exact h

/-! The flag (43_interrupt_ledger.md R160). -/

/-- While the flag is 1 its set stamp is the latest of the three. -/
def FlagStamps (s : State) : Prop :=
  s.il.lastSetCycle ≤ s.now ∧ s.il.lastClearCycle ≤ s.now ∧ s.il.lastReadCycle ≤ s.now ∧
    (s.il.flag = true → s.il.lastClearCycle ≤ s.il.lastSetCycle ∧ s.il.lastReadCycle ≤ s.il.lastSetCycle)

theorem clearFlag_lastClearCycle_le {now : Stamp} {l : InterruptLedger} (h : l.lastClearCycle ≤ now) :
    (clearFlag now l).lastClearCycle ≤ now := by
  rw [clearFlag_spec]
  cases hf : l.flag <;> simp [h]

theorem clearFlag_flag (now : Stamp) (l : InterruptLedger) : (clearFlag now l).flag = false := rfl

theorem reset_flagStamps : FlagStamps State.reset := by
  unfold FlagStamps
  decide

theorem perform_flagStamps (i : Instr) {s : State} (hn : s.now ≠ lastTick) (h : FlagStamps s) :
    FlagStamps (perform i s) := by
  obtain ⟨hset, hclear, hread, hflag⟩ := h
  cases i with
  | tick =>
    rw [FlagStamps, perform, tick_now, tick_il]
    exact ⟨le_succ_of_ne_lastTick hn hset, le_succ_of_ne_lastTick hn hclear,
      le_succ_of_ne_lastTick hn hread, hflag⟩
  | stRead =>
    exact ⟨hset, clearFlag_lastClearCycle_le hclear, BitVec.le_refl _,
      by simp [perform, readStatus, clearFlag_flag]⟩
  | winStart => exact ⟨BitVec.le_refl _, hclear, hread, fun _ => ⟨hclear, hread⟩⟩
  | winEnd =>
    exact ⟨hset, clearFlag_lastClearCycle_le hclear, hread, by simp [perform, windowEnd, clearFlag_flag]⟩
  | cpuRd addr =>
    rw [FlagStamps, perform, reportRead_now, reportRead_il]
    exact ⟨hset, hclear, hread, hflag⟩
  | reset => exact reset_flagStamps
  | _ => exact ⟨hset, hclear, hread, hflag⟩

/-! All of them. -/

theorem stampInv_iff (s : State) : StampInv s ↔ PauseStamps s ∧ StallStamps s ∧ FlagStamps s := by
  unfold StampInv PauseStamps StallStamps FlagStamps
  tauto

theorem perform_stampInv (i : Instr) {s : State} (hn : s.now ≠ lastTick) (h : StampInv s) :
    StampInv (perform i s) := by
  rw [stampInv_iff] at h ⊢
  obtain ⟨hpause, hstall, hflag⟩ := h
  exact ⟨perform_pauseStamps i hn hpause, perform_stallStamps i hn hstall, perform_flagStamps i hn hflag⟩

/-- Settles O49: each pair of stamps keeps its own invariant under every operation. -/
theorem stepKeepsStampInvariant : Obligations.StepKeepsStampInvariant := by
  intro s t hs hn h
  obtain ⟨i, rfl⟩ := exists_perform_of_step h
  exact @perform_stampInv i (takeWord s) hn hs

end Sys2Proof.Machine
end

section
/-! PROOFS. The step on a waiting word and on an idle port, and the machine run over the words of a sequence
(00_scope.md R1): the operations look at no word that waits. -/

namespace Sys2Proof.Machine

/-- Settles O7: the word taken and the response withdrawn are the state `takeWord` leaves. -/
theorem stepPerformsDecodedOperation : Obligations.StepPerformsDecodedOperation := by
  refine ⟨fun s w ws i hp hw => ?_, fun s hp => ?_⟩
  · have hd : decodeWord (presentedWord s) = .ok i := by rwa [presentedWord, hp]
    rw [step_of_decode_ok hd, takeWord, hp]
    rfl
  · have hd : decodeWord (presentedWord s) = .ok .tick := by
      rw [presentedWord_idle hp]
      decide
    rw [step_of_decode_ok hd, takeWord, hp]
    rfl

/-- The words waiting are these. -/
def State.withPending (s : State) (ws : List CmdWord) : State := s.setPort { s.port with pending := ws }

theorem reportRead_setPort (addr : Addr) (s : State) (v : Port) :
    reportRead addr (s.setPort v) = (reportRead addr s).setPort v := by
  cases h : s.dmc.rdyLow
  · simp [reportRead, h]
    rfl
  · simp [reportRead, h]

/-- What an operation leaves does not turn on the words waiting, which it leaves as they are. -/
theorem perform_withPending (i : Instr) (s : State) (ws : List CmdWord) :
    perform i (s.withPending ws) = (perform i s).withPending ws := by
  cases i with
  | tick => rw [perform, State.withPending, tick_setPort, State.withPending, tick_port]
  | cpuRd addr =>
    rw [perform, State.withPending, reportRead_setPort, State.withPending, reportRead_port]
  | _ => rfl

/-- A step on a loaded sequence performs its first operation and leaves the rest loaded. -/
theorem step_loadTrace_cons (i : Instr) (is : List Instr) (s : State) :
    step (loadTrace (i :: is) s) = .next (loadTrace is (perform i (withdrawResponse s))) := by
  have hd : decodeWord (presentedWord (loadTrace (i :: is) s)) = .ok i := decodeWord_encode i
  have htake : takeWord (loadTrace (i :: is) s) = (withdrawResponse s).withPending (is.map encode) := rfl
  rw [step_of_decode_ok hd, exec_eq_next, htake, perform_withPending]
  rfl

theorem run_loadTrace (ops : List Instr) (s : State) :
    Host.Core.run core ops.length (loadTrace ops s) = .next ((performAll ops s).withPending []) := by
  induction ops generalizing s with
  | nil => rfl
  | cons i is ih =>
    have hstep : core.step (loadTrace (i :: is) s) = .next (loadTrace is (perform i (withdrawResponse s))) :=
      step_loadTrace_cons i is s
    simp only [List.length_cons, Host.Core.run, hstep]
    exact ih _

theorem performAll_withPending (ops : List Instr) (s : State) (ws : List CmdWord) :
    performAll ops (s.withPending ws) = (performAll ops s).withPending ws := by
  induction ops generalizing s with
  | nil => rfl
  | cons i is ih =>
    have hw : withdrawResponse (s.withPending ws) = (withdrawResponse s).withPending ws := rfl
    rw [performAll_cons, hw, perform_withPending, ih, performAll_cons]

/-- Settles O8: each step performs the next operation of those loaded, and the operations commute with what
waits. -/
theorem loadedTraceRunsInOrder : Obligations.LoadedTraceRunsInOrder := by
  intro ops s
  have hempty : { s with port := { s.port with pending := [] } } = s.withPending [] := rfl
  rw [hempty, runOps_eq_next, performAll_withPending]
  exact run_loadTrace ops s

end Sys2Proof.Machine
end

section
/-! PROOFS. What each operation but `TICK` leaves, as a record with the parts it does not name as they were, and
the frame all eight share (20_memory.md R44). -/

namespace Sys2Proof.Machine

/-- Settles O11: the block is left as at reset, its surroundings as they were. -/
theorem resetOperation : Obligations.ResetOperation :=
  ⟨by decide, fun s => ⟨resetBlock s, exec_reset s, rfl, rfl, rfl, rfl, rfl, rfl, rfl, rfl, rfl⟩⟩

theorem Phase.isPaused_iff (p : Phase) :
    p.isPaused = true ↔ p = .pausedDuringRead ∨ p = .pausedDuringWrite := by
  cases p <;> simp [Phase.isPaused]

@[simp] theorem startCopy_active (page : Byte) (odd : Bool) (s : State) :
    (startCopy page odd s).oam.active = true := rfl

theorem halt_of_active {s : State} (h : s.oam.active = true) : halt s = true := by simp [halt, h]

/-- What the trigger sets; every part not named is as it was (40_bulk_copy_dma.md R80). -/
theorem startCopy_eq (page : Byte) (odd : Bool) (s : State) :
    startCopy page odd s = { s with
      oam := freshTransfer page odd
      cl := { s.cl with
        alignOwed := false
        oamResumeCycle :=
          if s.oam.phase = .pausedDuringRead ∨ s.oam.phase = .pausedDuringWrite then s.now
          else s.cl.oamResumeCycle } } := by
  simp [startCopy, ledgerAtTrigger, ← Phase.isPaused_iff, State.setCl, State.setOam]

/-- Settles O13: the engine is started afresh and active, which raises `halt`. -/
theorem copyTriggerStartsTransfer : Obligations.CopyTriggerStartsTransfer :=
  fun page odd s => ⟨startCopy page odd s, exec_oamTrig page odd s, startCopy_eq page odd s,
    halt_of_active (startCopy_active page odd s)⟩

theorem reportRead_of_not_rdyLow {s : State} (h : s.dmc.rdyLow = false) (addr : Addr) :
    reportRead addr s = { s with dmc := { s.dmc with lastReadAddress := addr } } := by
  simp [reportRead, h, State.setDmc]

/-- Settles O15: one equation for each value of the bit. -/
theorem readReportKeepsAddress : Obligations.ReadReportKeepsAddress :=
  fun addr s => ⟨fun h => by rw [exec_cpuRd, reportRead_of_not_rdyLow h],
    fun h => by rw [exec_cpuRd, reportRead_of_rdyLow h]⟩

/-- What the status read leaves; every part not named is as it was (43_interrupt_ledger.md R153). -/
theorem readStatus_eq (s : State) :
    readStatus s = { s with
      il := { s.il with
        flag := false
        line := false
        lastReadCycle := s.now
        lastClearCycle := if s.il.flag = true then s.now else s.il.lastClearCycle }
      port := { s.port with response := some s.il.flag } } := by
  simp [readStatus, clearFlag_spec, State.setIl, State.setPort]

@[simp] theorem readStatus_flag (s : State) : (readStatus s).il.flag = false := rfl
@[simp] theorem readStatus_response (s : State) : (readStatus s).port.response = some s.il.flag := rfl

/-- Settles O16: what the read leaves, and the answer on the wide port by its value. -/
theorem statusReadAnswersAndClears : Obligations.StatusReadAnswersAndClears := by
  refine fun s => ⟨readStatus s, exec_stRead s, readStatus_eq s, ?_⟩
  rw [responseWord, readStatus_response]
  cases s.il.flag <;> rfl

theorem windowStart_eq (s : State) :
    windowStart s = { s with il := { s.il with
      spanActive := true, flag := true, lastSetCycle := s.now, line := s.il.enable } } := by
  simp [windowStart, recomputeLine, State.setIl]

theorem windowEnd_eq (s : State) :
    windowEnd s = { s with il := { s.il with
      spanActive := false, flag := false, line := false
      lastClearCycle := if s.il.flag = true then s.now else s.il.lastClearCycle } } := by
  simp [windowEnd, clearFlag_spec, State.setIl]

/-- Settles O18: what the window start leaves. -/
theorem windowStartSetsFlag : Obligations.WindowStartSetsFlag :=
  fun s => by rw [exec_winStart, windowStart_eq]

/-- Settles O19: what the window end leaves. -/
theorem windowEndClearsFlag : Obligations.WindowEndClearsFlag :=
  fun s => by rw [exec_winEnd, windowEnd_eq]

/-- Settles O20: the first read left flag and line 0 and took the stamp that the second takes again. -/
theorem secondStatusReadHasNoEffect : Obligations.SecondStatusReadHasNoEffect := by
  intro s t u ht hu
  obtain rfl := eq_perform_of_exec ht
  obtain rfl := eq_perform_of_exec hu
  simp [perform, readStatus_eq]

/-- Settles O38: only a tick touches the surroundings, only a status read answers, only `RESET` and a tick write
the time base. -/
theorem nonTickOperationsTouchNoBus : Obligations.NonTickOperationsTouchNoBus := by
  intro i s hi
  have henv := perform_env hi s
  refine ⟨perform i s, exec_eq_next i s, henv, ?_, ?_, fun a => by rw [henv], fun a => by rw [henv], ?_⟩
  · cases i with
    | tick => exact absurd rfl hi
    | cpuRd addr => rw [perform, reportRead_port]
    | _ => rfl
  · intro hst
    cases i with
    | tick => exact absurd rfl hi
    | stRead => exact absurd rfl hst
    | cpuRd addr => rw [perform, reportRead_port]
    | _ => rfl
  · intro hreset
    cases i with
    | tick => exact absurd rfl hi
    | reset => exact absurd rfl hreset
    | cpuRd addr => exact reportRead_now addr s
    | _ => rfl

end Sys2Proof.Machine
end

section
/-! PROOFS. The window and the interrupt line over all operations (43_interrupt_ledger.md R150, R157, R158). -/

namespace Sys2Proof.Machine

/-- The pair of bits that each of the three states names. -/
theorem windowState_eq_some_iff (l : InterruptLedger) (w : WindowState) :
    windowState l = some w ↔ l.flag = decide (w = .s1) ∧ l.spanActive = decide (w ≠ .s0) := by
  unfold windowState
  cases w <;> cases l.flag <;> cases l.spanActive <;> decide

/-- A status read answers the flag and clears it; the span stays. -/
theorem windowState_readStatus {s : State} {w : WindowState} (hw : windowState s.il = some w) :
    windowState (readStatus s).il = some (if w = .s0 then .s0 else .s2) ∧
      (readStatus s).port.response = some (decide (w = .s1)) := by
  obtain ⟨hflag, hspan⟩ := (windowState_eq_some_iff _ _).mp hw
  refine ⟨(windowState_eq_some_iff _ _).mpr ?_, by rw [readStatus_response, hflag]⟩
  rw [readStatus_eq, hspan]
  cases w <;> exact ⟨rfl, rfl⟩

/-- Settles O21, by the operation: those that the table names set the pair, and the others leave it. -/
theorem windowStateTable : Obligations.WindowStateTable := by
  intro i s t w hw h
  obtain rfl := eq_perform_of_exec h
  refine ⟨?_, ?_, ?_, ?_, ?_⟩
  · rintro rfl
    rfl
  · rintro rfl
    exact windowState_readStatus hw
  · rintro rfl
    rfl
  · rintro rfl
    rfl
  · intro hstart hread hend hreset
    cases i with
    | winStart => exact absurd rfl hstart
    | stRead => exact absurd rfl hread
    | winEnd => exact absurd rfl hend
    | reset => exact absurd rfl hreset
    | tick => rwa [perform, tick_il]
    | cpuRd addr => rwa [perform, reportRead_il]
    | oamTrig page odd | dmcTrig addr | enWrite en => exact hw

/-- The line an operation leaves; those that do not write the ledger leave it as it is. -/
def lineAfter (i : Instr) (s : State) : Bool :=
  match i with
  | .winStart => s.il.enable
  | .enWrite en => s.il.flag && en
  | .stRead => false
  | .winEnd => false
  | .reset => false
  | .tick => intLine s
  | .oamTrig _ _ => intLine s
  | .dmcTrig _ => intLine s
  | .cpuRd _ => intLine s

theorem intLine_perform (i : Instr) (s : State) : intLine (perform i s) = lineAfter i s := by
  cases i with
  | tick => rw [intLine, perform, tick_il, lineAfter, intLine]
  | cpuRd addr => rw [intLine, perform, reportRead_il, lineAfter, intLine]
  | _ => rfl

/-- Settles O23: of the operations that can leave the line high, the window start needs the enable bit and the
enable write its operand and the flag; that the line was low says the other bit was 0. -/
theorem risingEdgesOfInterruptLine : Obligations.RisingEdgesOfInterruptLine := by
  intro i s t hline h
  obtain rfl := eq_perform_of_exec h
  have hlow : intLine s = (s.il.flag && s.il.enable) := hline
  rw [intLine_perform, hlow]
  cases i with
  | winStart =>
    rw [lineAfter]
    cases s.il.flag <;> cases s.il.enable <;> simp
  | enWrite en =>
    rw [lineAfter]
    cases en <;> cases s.il.flag <;> cases s.il.enable <;> simp
  | _ => simp [lineAfter, hlow]

/-- An operation other than `WIN_START` leaves a clear flag clear. -/
theorem perform_flag_clear {i : Instr} (hi : i ≠ .winStart) {s : State} (h : s.il.flag = false) :
    (perform i s).il.flag = false := by
  cases i with
  | winStart => exact absurd rfl hi
  | tick => rwa [perform, tick_il]
  | cpuRd addr => rwa [perform, reportRead_il]
  | stRead | winEnd | reset => rfl
  | oamTrig page odd | dmcTrig addr | enWrite en => exact h

/-- With the flag clear, no operation but `WIN_START` raises the line. -/
theorem perform_line_low {i : Instr} (hi : i ≠ .winStart) {s : State} (hf : s.il.flag = false)
    (hl : s.il.line = false) : (perform i s).il.line = false := by
  have hline := intLine_perform i s
  cases i with
  | winStart => exact absurd rfl hi
  | enWrite en => exact hline.trans (by simp [lineAfter, hf])
  | _ => exact hline.trans (by simp [lineAfter, intLine, hl])

/-- Settles O24: flag and line stay 0 together. -/
theorem noInterruptBeforeNextWindow : Obligations.NoInterruptBeforeNextWindow := by
  intro ops s t hf hl hops h
  obtain rfl := eq_performAll_of_runOps h
  exact performAll_induction (fun u => u.il.flag = false ∧ u.il.line = false)
    (fun i hi u hu => ⟨perform_flag_clear (hops i hi) hu.1, perform_line_low (hops i hi) hu.1 hu.2⟩) ⟨hf, hl⟩

end Sys2Proof.Machine
end

section
/-! PROOFS. The time base over a sequence (10_state.md R10), and the orders of simultaneous events that
60_exceptions.md R184 compares. -/

namespace Sys2Proof.Machine

theorem perform_now {i : Instr} (hi : i ≠ .reset) (s : State) :
    (perform i s).now = s.now + BitVec.ofNat 64 ([i].count .tick) := by
  cases i with
  | reset => exact absurd rfl hi
  | tick => simp [perform]
  | cpuRd addr => simp [perform]
  | _ => simp [perform]

/-- Settles O35, by induction on the operations. -/
theorem timeBaseCountsTicks : Obligations.TimeBaseCountsTicks := by
  intro ops s t hops h
  obtain rfl := eq_performAll_of_runOps h
  clear h
  induction ops generalizing s with
  | nil => simp
  | cons i is ih =>
    rw [performAll_cons, ih _ (fun j hj => hops j (List.mem_cons_of_mem i hj)),
      perform_now (hops i List.mem_cons_self), withdrawResponse_now, BitVec.add_assoc, ← BitVec.ofNat_add,
      ← List.count_append, List.singleton_append]

/-- The two triggers write different fields, and neither looks at what the other writes. -/
theorem startCopy_startFetch (page : Byte) (odd : Bool) (addr : Addr) (s : State) :
    startCopy page odd (startFetch addr s) = startFetch addr (startCopy page odd s) := rfl

/-- Both orders end with the line flag AND enable, the flag 1 and the enable bit the operand. -/
theorem writeEnable_windowStart (en : Bool) (s : State) :
    writeEnable en (windowStart s) = windowStart (writeEnable en s) := rfl

/-- Settles O51: the first two pairs of operations commute; the others are evaluated in both orders. -/
theorem orderOfSimultaneousEvents : Obligations.OrderOfSimultaneousEvents := by
  refine ⟨fun page odd addr s t t' ht ht' => ?_, fun en s t t' ht ht' => ?_,
    fun addr addr' s t t' hr ht ht' => ?_, fun s t t' ht ht' => ?_⟩
  · obtain rfl := eq_perform_of_exec ht
    obtain rfl := eq_perform_of_exec ht'
    exact congrArg Host.Outcome.next (startCopy_startFetch page odd addr s)
  · obtain rfl := eq_perform_of_exec ht
    obtain rfl := eq_perform_of_exec ht'
    exact congrArg Host.Outcome.next (writeEnable_windowStart en s)
  · obtain rfl := eq_perform_of_exec ht
    obtain rfl := eq_perform_of_exec ht'
    refine ⟨⟨_, exec_dmcTrig addr' _, ?_⟩, ⟨_, exec_cpuRd addr _, ?_⟩⟩
    · rw [perform, reportRead_of_not_rdyLow hr]
      rfl
    · rw [perform, reportRead_of_rdyLow (startFetch_rdyLow addr' s)]
      rfl
  · obtain rfl := eq_perform_of_exec ht
    obtain rfl := eq_perform_of_exec ht'
    exact ⟨⟨_, exec_stRead _, rfl, rfl⟩, rfl, _, exec_winStart _, rfl⟩

end Sys2Proof.Machine
end

section
/-! PROOFS. The ten kinds of tick, said once, and what the statements on single ticks take from them. -/

namespace Sys2Proof.Machine

/-- What a tick can be (42_arbitration_tick.md R120 to R126, 40_bulk_copy_dma.md R81, 41_sample_fetch_dma.md
R102). -/
inductive TickKind (s : State) : State → Prop
  | unowned (hr : s.dmc.rdyLow = false) (ha : s.oam.active = false) : TickKind s (clocked s)
  | owed (hr : s.dmc.rdyLow = false) (ha : s.oam.active = true) (ho : s.cl.alignOwed = true) :
      TickKind s (resumeAlign (clocked s))
  | aligning (hr : s.dmc.rdyLow = false) (ha : s.oam.active = true) (ho : s.cl.alignOwed = false)
      (hp : s.oam.phase = .aligning) : TickKind s (startupAlign (clocked s))
  | reading (hr : s.dmc.rdyLow = false) (ha : s.oam.active = true) (ho : s.cl.alignOwed = false)
      (hp : s.oam.phase = .reading) : TickKind s (readHalf (clocked s))
  | writing (hr : s.dmc.rdyLow = false) (ha : s.oam.active = true) (ho : s.cl.alignOwed = false)
      (hp : s.oam.phase = .writing) : TickKind s (writeHalf (clocked s))
  | completing (hr : s.dmc.rdyLow = false) (ha : s.oam.active = true) (ho : s.cl.alignOwed = false)
      (hp : s.oam.phase = .completing) : TickKind s (complete (clocked s))
  /-- the phases of an active engine that the invariants exclude here -/
  | stuck (hr : s.dmc.rdyLow = false) (ha : s.oam.active = true) (ho : s.cl.alignOwed = false)
      (hp : s.oam.phase = .idle ∨ s.oam.phase.isPaused = true) : TickKind s (clocked s)
  | fetch (hr : s.dmc.rdyLow = true) (h1 : s.dmc.stallCyclesRemaining.val ≤ 1) :
      TickKind s (resumeOam (fetchCycle (holdOam (clocked s))))
  | repeated (hr : s.dmc.rdyLow = true) (h2 : 2 ≤ s.dmc.stallCyclesRemaining.val)
      (hv : s.env.repeatReadRev = true) (h3 : s.dmc.stallCyclesRemaining.val ≤ 3) :
      TickKind s (repeatRead (countStall (holdOam (clocked s))))
  | counted (hr : s.dmc.rdyLow = true) (h2 : 2 ≤ s.dmc.stallCyclesRemaining.val)
      (hx : s.env.repeatReadRev = false ∨ s.dmc.stallCyclesRemaining.val = 4) :
      TickKind s (countStall (holdOam (clocked s)))

theorem tickKind (s : State) : TickKind s (tick s) := by
  obtain ⟨hr, he⟩ | ⟨hr, ha, he⟩ | ⟨hr, ha, he⟩ := tick_cases s
  · obtain ⟨h1, hd⟩ | ⟨h2, hv, h3, hd⟩ | ⟨h2, hx, hd⟩ := tick_rdyLow_cases hr <;> rw [hd]
    · exact .fetch hr h1
    · exact .repeated hr h2 hv h3
    · exact .counted hr h2 hx
  · obtain ⟨ho, hs⟩ | ⟨ho, hp, hs⟩ | ⟨ho, hp, hs⟩ | ⟨ho, hp, hs⟩ | ⟨ho, hp, hs⟩ | ⟨ho, hp, hs⟩ :=
      oamStep_cases (clocked s) <;> rw [tick_of_active hr ha, hs]
    · exact .owed hr ha ho
    · exact .aligning hr ha ho hp
    · exact .reading hr ha ho hp
    · exact .writing hr ha ho hp
    · exact .completing hr ha ho hp
    · exact .stuck hr ha ho hp
  · rw [tick_of_idle hr ha]
    exact .unowned hr ha

theorem tickKind_of_exec {s t : State} (h : exec .tick s = .next t) : TickKind s t :=
  eq_perform_of_exec h ▸ tickKind s

/-! The ticks of the bulk-copy engine. -/

/-- Settles O25: neither engine owns the tick, so only the time base moves. -/
theorem unownedTickOnlyCounts : Obligations.UnownedTickOnlyCounts := by
  intro s hr ha
  refine ⟨?_, by simp [halt, hr, ha]⟩
  rw [exec_tick, tick_of_idle hr ha]
  rfl

/-- Settles O27: the owed cycle is paid before the phase is looked at, and the startup wait leads to the first
read. -/
theorem alignmentCyclesTouchNoBus : Obligations.AlignmentCyclesTouchNoBus := by
  refine fun s hr ha => ⟨fun ho => ?_, fun ho hp => ?_⟩
  · rw [exec_tick, tick_of_owed hr ha ho]
    rfl
  · rw [exec_tick, tick_of_aligning hr ha ho hp]
    rfl

/-- Settles O28: the state the read half-cycle leaves, on the clock of the tick. -/
theorem readHalfReadsOneByte : Obligations.ReadHalfReadsOneByte := by
  refine fun s hr ha ho hp => ⟨_, tick s, rfl, exec_tick s, ?_⟩
  rw [tick_of_reading hr ha ho hp]
  rfl

/-- The half-cycle that leads to the completion cycle is the 512th. -/
theorem isLastHalfCycle_iff (c : BitVec 16) : c + 1#16 = Config.transferHalfCycles ↔ c = 511#16 := by
  rw [show Config.transferHalfCycles = 511#16 + 1#16 from rfl, BitVec.add_left_inj]

/-- Settles O29: the state the write half-cycle leaves; the memory by what a read finds after a write. -/
theorem writeHalfWritesOneByte : Obligations.WriteHalfWritesOneByte := by
  intro s hr ha ho hp
  refine ⟨tick s, exec_tick s, ?_⟩
  rw [tick_of_writing hr ha ho hp]
  refine ⟨rfl, ?_, rfl, rfl, rfl, rfl, rfl, rfl, rfl, rfl, ?_, fun a ha => ?_⟩
  · simp only [writeHalf, State.setOam_oam, clocked_oam, isLastHalfCycle_iff]
  · exact Memory.read_write_same _ _ _
  · exact Memory.read_write_other _ _ ha

/-- Settles O30: the record is the reset one, and with no stall nothing else keeps `halt` high. -/
theorem completionCycleResetsEngine : Obligations.CompletionCycleResetsEngine := by
  intro s hr ha ho hp
  have he := tick_of_completing hr ha ho hp
  refine ⟨by rw [exec_tick, he]; rfl, fun t ht => ?_⟩
  obtain rfl := eq_perform_of_exec ht
  rw [perform, he]
  simp [halt, complete, hr, Oam.reset]

/-! The ticks of the sample-fetch engine. -/

theorem holdOam_of_reading {s : State} (ha : s.oam.active = true) (hp : s.oam.phase = .reading) :
    holdOam s = pauseInto .pausedDuringRead s := by
  simp [holdOam, pauseOam, ha, hp]

theorem holdOam_of_writing {s : State} (ha : s.oam.active = true) (hp : s.oam.phase = .writing) :
    holdOam s = pauseInto .pausedDuringWrite s := by
  simp [holdOam, pauseOam, ha, hp]

/-- Outside an active half-cycle there is nothing to hold. -/
theorem holdOam_of_other {s : State}
    (h : s.oam.active = false ∨ s.oam.phase ≠ .reading ∧ s.oam.phase ≠ .writing) : holdOam s = s := by
  obtain ⟨ha, hp, -⟩ | ⟨ha, hp, -⟩ | ⟨-, he⟩ := holdOam_trichotomy s
  · simp_all
  · simp_all
  · exact he

/-- A stall cycle before the last counts down and holds; only the bus log may differ from that. -/
theorem tick_stalling {s : State} (hr : s.dmc.rdyLow = true) (h2 : 2 ≤ s.dmc.stallCyclesRemaining.val) :
    (tick s).dmc = { s.dmc with stallCyclesRemaining := stallPred s.dmc.stallCyclesRemaining } ∧
    (tick s).oam = (holdOam (clocked s)).oam ∧ (tick s).cl = (holdOam (clocked s)).cl := by
  obtain ⟨h1, -⟩ | ⟨-, -, -, he⟩ | ⟨-, -, he⟩ := tick_rdyLow_cases hr
  · exact absurd (h2.trans h1) (by decide)
  · simp [he, repeatRead, countStall]
  · simp [he, countStall]

theorem tick_env_of_repeat {s : State} (hr : s.dmc.rdyLow = true) (h2 : 2 ≤ s.dmc.stallCyclesRemaining.val)
    (hv : s.env.repeatReadRev = true) (h3 : s.dmc.stallCyclesRemaining.val ≤ 3) :
    (tick s).env = { s.env with busLog := s.env.busLog ++
      [.read .repeatRead (s.now + 1#64) s.dmc.lastReadAddress (mainByte s.env s.dmc.lastReadAddress)] } := by
  rw [tick_of_repeat hr h2 hv h3]
  simp [repeatRead, countStall]

theorem tick_env_of_count {s : State} (hr : s.dmc.rdyLow = true) (h2 : 2 ≤ s.dmc.stallCyclesRemaining.val)
    (hx : s.env.repeatReadRev = false ∨ s.dmc.stallCyclesRemaining.val = 4) : (tick s).env = s.env := by
  rw [tick_of_count hr h2 hx]
  simp [countStall]

theorem stallPred_val_succ {r : Fin 5} (h : 1 ≤ r.val) : (stallPred r).val + 1 = r.val := by
  simp [stallPred, h]

/-- Settles O31: the parts of a stall cycle by `tick_stalling`, the bus by the strap and the count. -/
theorem stallCycleCountsAndHolds : Obligations.StallCycleCountsAndHolds := by
  intro s hr h2
  obtain ⟨hdmc, hoam, hcl⟩ := tick_stalling hr h2
  refine ⟨tick s, exec_tick s, tick_now s, tick_il s, tick_port s,
    ⟨_, stallPred_val_succ (by omega), hdmc⟩, tick_env_of_repeat hr h2, tick_env_of_count hr h2,
    fun ha hp => ?_, fun ha hp => ?_, fun hx => ?_⟩
  · rw [hoam, hcl, @holdOam_of_reading (clocked s) ha hp]
    exact ⟨rfl, rfl⟩
  · rw [hoam, hcl, @holdOam_of_writing (clocked s) ha hp]
    exact ⟨rfl, rfl⟩
  · rw [hoam, hcl, @holdOam_of_other (clocked s) hx]
    exact ⟨rfl, rfl⟩

/-- The fetch: its byte kept, the stall over, one access logged, and the engine's progress kept
(41_sample_fetch_dma.md R106). -/
theorem tick_fetch {s : State} (hr : s.dmc.rdyLow = true) (h1 : s.dmc.stallCyclesRemaining.val ≤ 1) :
    (tick s).dmc = { s.dmc with
      rdyLow := false, stallCyclesRemaining := 0, sampleByte := mainByte s.env s.dmc.sampleAddress } ∧
    (tick s).env = { s.env with busLog := s.env.busLog ++
      [.read .sampleFetch (s.now + 1#64) s.dmc.sampleAddress (mainByte s.env s.dmc.sampleAddress)] } ∧
    (tick s).oam.active = s.oam.active := by
  obtain ⟨-, hdmc, -, henv, -⟩ := resumeOam_frame (fetchCycle (holdOam (clocked s)))
  obtain ⟨-, -, -, -, -, -, -, hoam⟩ := dmcTick_frame (clocked s)
  refine ⟨?_, ?_, ?_⟩
  · rw [tick_of_fetch hr h1, hdmc]
    simp [fetchCycle]
  · rw [tick_of_fetch hr h1, henv]
    simp [fetchCycle]
  · rw [tick_of_rdyLow hr, hoam]
    rfl

theorem Oam.with_phase_self {o : Oam} {p : Phase} (h : o.phase = p) : { o with phase := p } = o := by
  subst h
  rfl

/-! What the fetch cycle leaves of the bulk-copy engine, by its phase before (42_arbitration_tick.md R124). -/

section FetchTick
variable {s : State} (hr : s.dmc.rdyLow = true) (h1 : s.dmc.stallCyclesRemaining.val ≤ 1)
include hr h1

theorem tick_fetch_reading (ha : s.oam.active = true) (hp : s.oam.phase = .reading) :
    (tick s).oam = s.oam ∧ (tick s).cl = { s.cl with
      dmcInactiveCycle := s.now + 1#64, oamPauseCycle := s.now + 1#64, oamResumeCycle := s.now + 1#64
      alignOwed := true } := by
  rw [tick_of_fetch hr h1, @holdOam_of_reading (clocked s) ha hp]
  exact ⟨Oam.with_phase_self hp, rfl⟩

theorem tick_fetch_writing (ha : s.oam.active = true) (hp : s.oam.phase = .writing) :
    (tick s).oam = s.oam ∧ (tick s).cl = { s.cl with
      dmcInactiveCycle := s.now + 1#64, oamPauseCycle := s.now + 1#64, oamResumeCycle := s.now + 1#64
      alignOwed := true } := by
  rw [tick_of_fetch hr h1, @holdOam_of_writing (clocked s) ha hp]
  exact ⟨Oam.with_phase_self hp, rfl⟩

theorem tick_fetch_pausedDuringRead (hp : s.oam.phase = .pausedDuringRead) :
    (tick s).oam = { s.oam with phase := .reading } ∧ (tick s).cl = { s.cl with
      dmcInactiveCycle := s.now + 1#64, oamResumeCycle := s.now + 1#64, alignOwed := true } := by
  rw [tick_of_fetch hr h1, @holdOam_of_other (clocked s) (.inr (by simp [hp]))]
  simp [resumeOam, resumeInto, fetchCycle, hp]

theorem tick_fetch_pausedDuringWrite (hp : s.oam.phase = .pausedDuringWrite) :
    (tick s).oam = { s.oam with phase := .writing } ∧ (tick s).cl = { s.cl with
      dmcInactiveCycle := s.now + 1#64, oamResumeCycle := s.now + 1#64, alignOwed := true } := by
  rw [tick_of_fetch hr h1, @holdOam_of_other (clocked s) (.inr (by simp [hp]))]
  simp [resumeOam, resumeInto, fetchCycle, hp]

theorem tick_fetch_other (hp : s.oam.phase = .idle ∨ s.oam.phase = .aligning ∨ s.oam.phase = .completing) :
    (tick s).oam = s.oam ∧ (tick s).cl = { s.cl with dmcInactiveCycle := s.now + 1#64 } := by
  have hne : s.oam.phase ≠ .reading ∧ s.oam.phase ≠ .writing := by
    obtain hp | hp | hp := hp <;> simp [hp]
  rw [tick_of_fetch hr h1, @holdOam_of_other (clocked s) (.inr hne)]
  obtain hp | hp | hp := hp <;> simp [resumeOam, fetchCycle, hp]

end FetchTick

/-- Settles O32: the fetch by `tick_fetch`, the resume by the phase before; the invariant says that an engine in
a half-cycle is active. -/
theorem fetchCycleEndsStallAndResumes : Obligations.FetchCycleEndsStallAndResumes := by
  intro s hinv hr h1
  have active_of : s.oam.phase ≠ .idle → s.oam.active = true :=
    (Oam.active_iff_of_wf ((bulkCopyInv_iff s).mp hinv)).mpr
  obtain ⟨hdmc, henv, hact⟩ := tick_fetch hr h1
  refine ⟨_, tick s, rfl, exec_tick s, tick_now s, tick_il s, tick_port s, hdmc, henv, ?_, ?_, ?_,
    fun hp => tick_fetch_reading hr h1 (active_of (by simp [hp])) hp,
    fun hp => tick_fetch_writing hr h1 (active_of (by simp [hp])) hp,
    fun hp => tick_fetch_pausedDuringRead hr h1 hp, fun hp => tick_fetch_pausedDuringWrite hr h1 hp,
    fun hp => tick_fetch_other hr h1 hp⟩
  · simp [halt, hdmc, hact]
  · simp [outputs, hdmc]
  · simp [outputs, hdmc]

end Sys2Proof.Machine
end

section
/-! PROOFS. The phase after every operation (42_arbitration_tick.md R129): what holding and resuming do to a phase,
and the rows of the table, from the invariants. -/

namespace Sys2Proof.Machine

/-- The phase a held engine is left in (R123). -/
def Phase.held : Phase → Phase
  | .reading => .pausedDuringRead
  | .writing => .pausedDuringWrite
  | .idle => .idle
  | .aligning => .aligning
  | .pausedDuringRead => .pausedDuringRead
  | .pausedDuringWrite => .pausedDuringWrite
  | .completing => .completing

/-- The phase a resumed engine is left in (R124). -/
def Phase.resumed : Phase → Phase
  | .pausedDuringRead => .reading
  | .pausedDuringWrite => .writing
  | .idle => .idle
  | .aligning => .aligning
  | .reading => .reading
  | .writing => .writing
  | .completing => .completing

theorem holdOam_phase {s : State} (h : s.oam.Wf) : (holdOam s).oam.phase = s.oam.phase.held := by
  have hactive := Oam.active_iff_of_wf h
  cases hp : s.oam.phase <;> simp_all [holdOam, pauseOam, pauseInto, Phase.held]

theorem resumeOam_phase (s : State) : (resumeOam s).oam.phase = s.oam.phase.resumed := by
  unfold resumeOam
  cases hp : s.oam.phase <;> simp [resumeInto, Phase.resumed, hp]

/-- The phase after a tick of the sample-fetch engine: held, and resumed if the stall ends. -/
theorem tick_phase_of_rdyLow {s : State} (h : s.oam.Wf) (hr : s.dmc.rdyLow = true) :
    (tick s).oam.phase =
      if s.dmc.stallCyclesRemaining.val ≤ 1 then s.oam.phase.held.resumed else s.oam.phase.held := by
  have hhold : (holdOam (clocked s)).oam.phase = s.oam.phase.held := @holdOam_phase (clocked s) h
  split
  next h1 => rw [tick_of_fetch hr h1, resumeOam_phase, ← hhold]; rfl
  next h1 =>
    obtain ⟨-, hoam, -⟩ := tick_stalling hr (by omega)
    rw [hoam, hhold]

/-! What the invariants say of the phases. -/

section Phases
variable {s : State} (h : Inv s)
include h

theorem Inv.wf : s.oam.Wf := ((inv_iff s).mp h).1

theorem Inv.active_of_phase (hp : s.oam.phase ≠ .idle) : s.oam.active = true :=
  (Oam.active_iff_of_wf h.wf).mpr hp

theorem Inv.inactive_of_idle (hp : s.oam.phase = .idle) : s.oam.active = false :=
  Bool.eq_false_iff.mpr fun ha => (Oam.active_iff_of_wf h.wf).mp ha hp

/-- A stall in progress has a cycle left. -/
theorem Inv.stall_pos (hr : s.dmc.rdyLow = true) : 1 ≤ s.dmc.stallCyclesRemaining.val := by
  obtain ⟨-, ⟨hstall, -, -⟩, -⟩ := (inv_iff s).mp h
  have hne := hstall.mp hr
  omega

theorem Inv.rdyLow_of_paused (hp : s.oam.phase.isPaused = true) : s.dmc.rdyLow = true := by
  obtain ⟨-, ⟨-, hpaused, -⟩, -⟩ := (inv_iff s).mp h
  exact hpaused hp

theorem Inv.not_owed (hp : s.oam.phase.isHalfCycle = false) : s.cl.alignOwed = false := by
  obtain ⟨-, ⟨-, -, howed⟩, -⟩ := (inv_iff s).mp h
  exact Bool.eq_false_iff.mpr fun ho => absurd (hp.symm.trans (howed ho)) (by decide)

theorem Inv.tick_phase_stall (hr : s.dmc.rdyLow = true) : (tick s).oam.phase =
    if s.dmc.stallCyclesRemaining.val = 1 then s.oam.phase.held.resumed else s.oam.phase.held := by
  have hpos := h.stall_pos hr
  rw [tick_phase_of_rdyLow h.wf hr]
  exact if_congr (by omega) rfl rfl

/-! One row of the table for each phase. -/

theorem Inv.tick_phase_idle (hp : s.oam.phase = .idle) : (tick s).oam.phase = .idle := by
  cases hr : s.dmc.rdyLow with
  | true => rw [h.tick_phase_stall hr, hp]; exact ite_self _
  | false => rw [tick_of_idle hr (h.inactive_of_idle hp)]; exact hp

theorem Inv.tick_phase_aligning (hp : s.oam.phase = .aligning) :
    (tick s).oam.phase = if s.dmc.rdyLow then .aligning else .reading := by
  cases hr : s.dmc.rdyLow with
  | true => rw [h.tick_phase_stall hr, hp]; exact ite_self _
  | false =>
    rw [tick_of_aligning hr (h.active_of_phase (by simp [hp])) (h.not_owed (by rw [hp]; rfl)) hp]
    rfl

theorem Inv.tick_phase_reading (hp : s.oam.phase = .reading) : (tick s).oam.phase =
    if s.dmc.rdyLow then (if s.dmc.stallCyclesRemaining.val = 1 then .reading else .pausedDuringRead)
    else if s.cl.alignOwed then .reading else .writing := by
  have ha := h.active_of_phase (by simp [hp])
  cases hr : s.dmc.rdyLow with
  | true => rw [h.tick_phase_stall hr, hp]; rfl
  | false =>
    cases ho : s.cl.alignOwed with
    | true => rw [tick_of_owed hr ha ho]; exact hp
    | false => rw [tick_of_reading hr ha ho hp]; rfl

theorem Inv.tick_phase_writing (hp : s.oam.phase = .writing) : (tick s).oam.phase =
    if s.dmc.rdyLow then (if s.dmc.stallCyclesRemaining.val = 1 then .writing else .pausedDuringWrite)
    else if s.cl.alignOwed then .writing
    else if s.oam.currentCycle.toNat < 511 then .reading else .completing := by
  have ha := h.active_of_phase (by simp [hp])
  cases hr : s.dmc.rdyLow with
  | true => rw [h.tick_phase_stall hr, hp]; rfl
  | false =>
    cases ho : s.cl.alignOwed with
    | true => rw [tick_of_owed hr ha ho]; exact hp
    | false =>
      obtain ⟨-, -, -, hle, -⟩ := h.wf.of_writing hp
      have hlast : s.oam.currentCycle = 511#16 ↔ ¬ s.oam.currentCycle.toNat < 511 := by
        rw [← BitVec.toNat_inj]
        simp
        omega
      rw [tick_of_writing hr ha ho hp]
      simp only [writeHalf, State.setOam_oam, clocked_oam, isLastHalfCycle_iff, hlast, ite_not]
      rfl

theorem Inv.tick_phase_pausedDuringRead (hp : s.oam.phase = .pausedDuringRead) : (tick s).oam.phase =
    if s.dmc.stallCyclesRemaining.val = 1 then .reading else .pausedDuringRead := by
  rw [h.tick_phase_stall (h.rdyLow_of_paused (by rw [hp]; rfl)), hp]
  rfl

theorem Inv.tick_phase_pausedDuringWrite (hp : s.oam.phase = .pausedDuringWrite) : (tick s).oam.phase =
    if s.dmc.stallCyclesRemaining.val = 1 then .writing else .pausedDuringWrite := by
  rw [h.tick_phase_stall (h.rdyLow_of_paused (by rw [hp]; rfl)), hp]
  rfl

theorem Inv.tick_phase_completing (hp : s.oam.phase = .completing) :
    (tick s).oam.phase = if s.dmc.rdyLow then .completing else .idle := by
  cases hr : s.dmc.rdyLow with
  | true => rw [h.tick_phase_stall hr, hp]; exact ite_self _
  | false =>
    rw [tick_of_completing hr (h.active_of_phase (by simp [hp])) (h.not_owed (by rw [hp]; rfl)) hp]
    rfl

/-- A stall that ends over a half-cycle leaves an alignment cycle owed. -/
theorem Inv.tick_owes_alignment (hr : s.dmc.rdyLow = true) (h1 : s.dmc.stallCyclesRemaining.val ≤ 1)
    (hp : s.oam.phase = .reading ∨ s.oam.phase = .writing ∨ s.oam.phase.isPaused = true) :
    (tick s).cl.alignOwed = true := by
  rw [Phase.isPaused_iff] at hp
  obtain hp | hp | hp | hp := hp
  · rw [(tick_fetch_reading hr h1 (h.active_of_phase (by simp [hp])) hp).2]
  · rw [(tick_fetch_writing hr h1 (h.active_of_phase (by simp [hp])) hp).2]
  · rw [(tick_fetch_pausedDuringRead hr h1 hp).2]
  · rw [(tick_fetch_pausedDuringWrite hr h1 hp).2]

end Phases

/-- Settles O33: the tick row by row; no other operation but the trigger and `RESET` writes the phase. -/
theorem phaseTransitionTable : Obligations.PhaseTransitionTable := by
  intro i s t hinv h
  obtain rfl := eq_perform_of_exec h
  refine ⟨by rintro rfl; rfl, by rintro page rfl; rfl, by rintro page rfl; rfl, ?_, ?_⟩
  · rintro (⟨addr, rfl⟩ | ⟨addr, rfl⟩ | rfl | ⟨en, rfl⟩ | rfl | rfl)
    · rfl
    · rw [perform, reportRead_oam]
    · rfl
    · rfl
    · rfl
    · rfl
  · rintro rfl
    exact ⟨hinv.tick_phase_idle, hinv.tick_phase_aligning, hinv.tick_phase_reading, hinv.tick_phase_writing,
      hinv.tick_phase_pausedDuringRead, hinv.tick_phase_pausedDuringWrite, hinv.tick_phase_completing,
      fun hr h1 hp => hinv.tick_owes_alignment hr h1.le hp⟩

end Sys2Proof.Machine
end

section
/-! PROOFS. What raises `halt` and what lets it fall (42_arbitration_tick.md R127). -/

namespace Sys2Proof.Machine

theorem halt_iff_owner (s : State) : halt s = true ↔ owner s ≠ .none := by
  obtain ⟨h, hr⟩ | ⟨h, hr, ha⟩ | ⟨h, hr, ha⟩ := owner_cases s
  · simp [h, halt, hr]
  · simp [h, halt, ha]
  · simp [h, halt, hr, ha]

theorem halt_eq_false_iff (s : State) : halt s = false ↔ s.dmc.rdyLow = false ∧ s.oam.active = false := by
  simp [halt]

theorem reportRead_rdyLow (addr : Addr) (s : State) : (reportRead addr s).dmc.rdyLow = s.dmc.rdyLow := by
  obtain ⟨-, he⟩ | ⟨-, he⟩ := reportRead_cases addr s <;> rw [he]
  rfl

/-- An operation that triggers nothing, other than a tick or `RESET`, leaves `halt` as it is. -/
theorem halt_perform {i : Instr} (hi : triggersNothing i = true) (htick : i ≠ .tick) (hreset : i ≠ .reset)
    (s : State) : halt (perform i s) = halt s := by
  cases i with
  | tick => exact absurd rfl htick
  | reset => exact absurd rfl hreset
  | oamTrig page odd | dmcTrig addr => exact absurd hi (by simp [triggersNothing])
  | cpuRd addr => rw [halt, perform, reportRead_rdyLow, reportRead_oam]; rfl
  | _ => rfl

/-- Only the completion cycle ends a transfer. -/
theorem oamStep_active {s : State} (hp : s.oam.phase ≠ .completing) :
    (oamStep s).oam.active = s.oam.active := by
  obtain ⟨-, he⟩ | ⟨-, -, he⟩ | ⟨-, -, he⟩ | ⟨-, -, he⟩ | ⟨-, hp', -⟩ | ⟨-, -, he⟩ := oamStep_cases s
  · rw [he]; rfl
  · rw [he]; rfl
  · rw [he]; rfl
  · rw [he]; rfl
  · exact absurd hp' hp
  · rw [he]

theorem halt_tick_of_idle {s : State} (h : halt s = false) : halt (tick s) = false := by
  obtain ⟨hr, ha⟩ := (halt_eq_false_iff s).mp h
  rw [tick_of_idle hr ha]
  exact h

/-- A tick lets `halt` fall only by the completion cycle or by a fetch with no transfer in progress. -/
theorem halt_falls_by_tick {s : State} (h : halt s = true) (ht : halt (tick s) = false) :
    (s.dmc.rdyLow = false ∧ s.oam.phase = .completing) ∨
    (s.dmc.rdyLow = true ∧ s.dmc.stallCyclesRemaining.val ≤ 1 ∧ s.oam.active = false) := by
  obtain ⟨hr', ha'⟩ := (halt_eq_false_iff _).mp ht
  cases hr : s.dmc.rdyLow with
  | true =>
    by_cases h1 : s.dmc.stallCyclesRemaining.val ≤ 1
    · obtain ⟨-, -, hact⟩ := tick_fetch hr h1
      exact .inr ⟨rfl, h1, hact.symm.trans ha'⟩
    · obtain ⟨hdmc, -⟩ := tick_stalling hr (by omega)
      simp [hdmc, hr] at hr'
  | false =>
    have ha : s.oam.active = true := by simpa [halt, hr] using h
    refine .inl ⟨rfl, Classical.byContradiction fun hp => ?_⟩
    rw [tick_of_active hr ha, @oamStep_active (clocked s) hp, clocked_oam, ha] at ha'
    cases ha'

/-- Settles O34: the triggers leave `halt` high, a tick by `halt_falls_by_tick`, the others leave it as it is. -/
theorem haltRisesAndFalls : Obligations.HaltRisesAndFalls := by
  refine ⟨halt_iff_owner, fun i s t h => ?_⟩
  obtain rfl := eq_perform_of_exec h
  cases i with
  | tick =>
    refine ⟨fun hlow hhigh => ?_, fun hhigh hlow => ?_⟩
    · exact absurd ((halt_tick_of_idle hlow).symm.trans hhigh) (by decide)
    · obtain ⟨hr, hp⟩ | ⟨hr, h1, ha⟩ := halt_falls_by_tick hhigh hlow
      · exact .inr (.inl ⟨rfl, hr, hp⟩)
      · exact .inr (.inr ⟨rfl, hr, h1, ha⟩)
  | oamTrig page odd =>
    exact ⟨fun _ _ => .inl ⟨page, odd, rfl⟩, fun _ hlow => absurd hlow (by simp [perform, halt])⟩
  | dmcTrig addr =>
    exact ⟨fun _ _ => .inr ⟨addr, rfl⟩, fun _ hlow => absurd hlow (by simp [perform, halt])⟩
  | reset => exact ⟨fun _ hhigh => absurd hhigh Bool.false_ne_true, fun _ _ => .inl rfl⟩
  | cpuRd addr | stRead | enWrite en | winStart | winEnd =>
    rw [halt_perform rfl (by simp) (by simp)]
    exact ⟨fun hlow hhigh => absurd (hlow.symm.trans hhigh) (by decide),
      fun hhigh hlow => absurd (hlow.symm.trans hhigh) (by decide)⟩

end Sys2Proof.Machine
end

section
/-! PROOFS. The buses: which access a tick makes, and what it leaves of the memories (20_memory.md R44, R45). -/

namespace Sys2Proof.Machine

/-- A tick of the sample-fetch engine makes no access, or reads at one of its two sites. -/
theorem tick_env_of_rdyLow {s : State} (hr : s.dmc.rdyLow = true) :
    (s.dmc.stallCyclesRemaining.val ≤ 1 ∧ (tick s).env = { s.env with busLog := s.env.busLog ++
      [.read .sampleFetch (s.now + 1#64) s.dmc.sampleAddress (mainByte s.env s.dmc.sampleAddress)] }) ∨
    (s.env.repeatReadRev = true ∧
      (s.dmc.stallCyclesRemaining.val = 3 ∨ s.dmc.stallCyclesRemaining.val = 2) ∧
      (tick s).env = { s.env with busLog := s.env.busLog ++
        [.read .repeatRead (s.now + 1#64) s.dmc.lastReadAddress (mainByte s.env s.dmc.lastReadAddress)] }) ∨
    (tick s).env = s.env := by
  obtain ⟨h1, -⟩ | ⟨h2, hv, h3, -⟩ | ⟨h2, hx, -⟩ := tick_rdyLow_cases hr
  · obtain ⟨-, henv, -⟩ := tick_fetch hr h1
    exact .inl ⟨h1, henv⟩
  · exact .inr (.inl ⟨hv, by omega, tick_env_of_repeat hr h2 hv h3⟩)
  · exact .inr (.inr (tick_env_of_count hr h2 hx))

/-- A tick with no stall makes no access, or reads or writes one byte of the transfer. -/
theorem tick_env_of_not_rdyLow {s : State} (hr : s.dmc.rdyLow = false) :
    (s.oam.active = true ∧ s.cl.alignOwed = false ∧ s.oam.phase = .reading ∧
      tick s = readHalf (clocked s)) ∨
    (s.oam.active = true ∧ s.cl.alignOwed = false ∧ s.oam.phase = .writing ∧
      tick s = writeHalf (clocked s)) ∨
    (tick s).env = s.env := by
  have hk := tickKind s
  generalize tick s = t at hk ⊢
  cases hk with
  | reading _ ha ho hp => exact .inl ⟨ha, ho, hp, rfl⟩
  | writing _ ha ho hp => exact .inr (.inl ⟨ha, ho, hp, rfl⟩)
  | unowned | owed | aligning | completing | stuck => exact .inr (.inr rfl)
  | fetch hr' | repeated hr' | counted hr' => exact absurd (hr.symm.trans hr') (by decide)

/-- Settles O36: a tick by its owner, and no other operation touches the surroundings. -/
theorem busAccessSites : Obligations.BusAccessSites := by
  intro i s t hinv h
  obtain rfl := eq_perform_of_exec h
  by_cases hi : i = .tick
  · subst hi
    cases hr : s.dmc.rdyLow with
    | true =>
      have hpos := hinv.stall_pos hr
      obtain ⟨h1, he⟩ | ⟨hv, h23, he⟩ | he := tick_env_of_rdyLow hr
      · refine .inr ⟨rfl, _, congrArg Env.busLog he, .inr (.inr (.inl ⟨owner_of_rdyLow hr, by omega, ?_⟩))⟩
        rw [perform, tick_now, (tick_fetch hr h1).1]
      · refine .inr ⟨rfl, _, congrArg Env.busLog he, .inr (.inr (.inr ⟨owner_of_rdyLow hr, hv, h23, ?_⟩))⟩
        rw [perform, tick_now]
      · exact .inl (congrArg Env.busLog he)
    | false =>
      obtain ⟨ha, ho, hp, he⟩ | ⟨ha, ho, hp, he⟩ | he := tick_env_of_not_rdyLow hr
      · rw [perform, he]
        exact .inr ⟨rfl, _, rfl, .inl ⟨owner_of_active hr ha, hp, ho, rfl⟩⟩
      · rw [perform, he]
        exact .inr ⟨rfl, _, rfl, .inr (.inl ⟨owner_of_active hr ha, hp, ho, rfl⟩)⟩
      · exact .inl (congrArg Env.busLog he)
  · exact .inl (congrArg Env.busLog (perform_env hi s))

theorem bulkAccesses_append (l l' : List BusAccess) :
    bulkAccesses (l ++ l') = bulkAccesses l ++ bulkAccesses l' := List.filter_append ..

/-- A read of the sample-fetch engine adds nothing to the bulk-copy accesses. -/
theorem bulkAccesses_tick_of_rdyLow {s : State} (hr : s.dmc.rdyLow = true) :
    bulkAccesses (tick s).env.busLog = bulkAccesses s.env.busLog := by
  obtain ⟨-, he⟩ | ⟨-, -, he⟩ | he := tick_env_of_rdyLow hr <;> rw [he]
  · exact (bulkAccesses_append ..).trans (List.append_nil _)
  · exact (bulkAccesses_append ..).trans (List.append_nil _)

/-- Settles O37: `dmcTick_frame` keeps the record but for the phase, and the memories. -/
theorem noBulkAccessUnderStall : Obligations.NoBulkAccessUnderStall := by
  intro s t hr h
  obtain rfl := eq_perform_of_exec h
  obtain ⟨-, -, -, hmain, hsec, hptr, -, hoam⟩ := dmcTick_frame (clocked s)
  refine ⟨bulkAccesses_tick_of_rdyLow hr, ?_⟩
  rw [perform, tick_of_rdyLow hr, hmain, hsec, hptr, hoam]
  exact ⟨rfl, rfl, rfl, rfl, rfl, rfl, rfl, fun _ => rfl, fun _ => rfl⟩

@[simp] theorem holdOam_dmcActiveCycle (s : State) :
    (holdOam s).cl.dmcActiveCycle = s.cl.dmcActiveCycle := by
  obtain ⟨-, -, he⟩ | ⟨-, -, he⟩ | ⟨-, he⟩ := holdOam_trichotomy s <;> rw [he] <;> rfl

/-- A tick leaves the addresses of the sample-fetch engine and its active stamp as they were. -/
theorem tick_keeps_addresses (s : State) :
    (tick s).dmc.sampleAddress = s.dmc.sampleAddress ∧
    (tick s).dmc.lastReadAddress = s.dmc.lastReadAddress ∧
    (tick s).cl.dmcActiveCycle = s.cl.dmcActiveCycle := by
  have hk := tickKind s
  generalize tick s = t at hk ⊢
  cases hk with
  | fetch hr h1 =>
    obtain ⟨-, hdmc, -, -, -, -, hcl⟩ := resumeOam_frame (fetchCycle (holdOam (clocked s)))
    rw [hdmc, hcl]
    simp [fetchCycle]
  | repeated | counted => simp [repeatRead, countStall]
  | unowned | owed | aligning | reading | writing | completing | stuck => exact ⟨rfl, rfl, rfl⟩

/-- Only a write half-cycle touches the secondary memory or its pointer. -/
theorem tick_sec_of_not_writing {s : State}
    (h : ¬ (owner s = .oam ∧ s.cl.alignOwed = false ∧ s.oam.phase = .writing)) :
    (tick s).env.sec = s.env.sec ∧ (tick s).env.destPtr = s.env.destPtr := by
  cases hr : s.dmc.rdyLow with
  | true =>
    obtain ⟨-, he⟩ | ⟨-, -, he⟩ | he := tick_env_of_rdyLow hr <;> rw [he] <;> exact ⟨rfl, rfl⟩
  | false =>
    obtain ⟨-, -, -, he⟩ | ⟨ha, ho, hp, -⟩ | he := tick_env_of_not_rdyLow hr
    · rw [he]
      exact ⟨rfl, rfl⟩
    · exact absurd ⟨owner_of_active hr ha, ho, hp⟩ h
    · rw [he]
      exact ⟨rfl, rfl⟩

/-- Settles O39: a tick writes at most one byte, at the pointer, and moves the pointer only in a write
half-cycle. -/
theorem tickMemoryFrame : Obligations.TickMemoryFrame := by
  intro s t h
  obtain rfl := eq_perform_of_exec h
  obtain ⟨hsample, hlast, hactive⟩ := tick_keeps_addresses s
  refine ⟨fun a => by rw [perform, tick_main], tick_strap s, tick_il s, tick_port s, hsample, hlast, hactive,
    fun a ha => ?_, tick_sec_of_not_writing⟩
  obtain he | he := tick_sec_cases s <;> rw [perform, he]
  exact Memory.read_write_other _ _ ha

end Sys2Proof.Machine
end

section
/-! PROOFS. What an outcome depends on (00_scope.md R2): with other surroundings that give the same answers, a tick
leaves the same block and does the same thing on the buses. -/

namespace Sys2Proof.Machine

/-- What one tick does on the buses, before the surroundings say where a write goes and what a read returns. -/
inductive BusAction where
  | silent
  | read (site : ReadSite) (addr : Addr)
  | write (v : Byte)

/-- The accesses an action issues, in given surroundings. -/
def BusAction.accesses (now : Stamp) (e : Env) : BusAction → List BusAccess
  | .silent => []
  | .read site addr => [.read site now addr (mainByte e addr)]
  | .write v => [.write now e.destPtr v]

/-- The surroundings an action leaves: what `issueRead` and `secWrite` make of them. -/
def BusAction.on (now : Stamp) (e : Env) : BusAction → Env
  | .silent => e
  | .read site addr => { e with busLog := e.busLog ++ [.read site now addr (mainByte e addr)] }
  | .write v => { e with
      sec := Memory.write e.sec e.destPtr.toNat v
      destPtr := e.destPtr + 1#8
      busLog := e.busLog ++ [.write now e.destPtr v] }

theorem BusAction.on_busLog (now : Stamp) (e : Env) (a : BusAction) :
    (a.on now e).busLog = e.busLog ++ a.accesses now e := by
  cases a with
  | silent => exact (List.append_nil _).symm
  | read | write => rfl

/-- Surroundings with the same answers see the same accesses but for the destination. -/
theorem BusAction.accesses_atDest (now : Stamp) {e e' : Env} (h : ∀ addr, mainByte e addr = mainByte e' addr)
    (a : BusAction) : a.accesses now e' = (a.accesses now e).map (BusAccess.atDest e'.destPtr) := by
  cases a with
  | read site addr => simp [BusAction.accesses, BusAccess.atDest, h]
  | silent | write => rfl

theorem pauseOam_setEnv (s : State) (e : Env) : pauseOam (s.setEnv e) = (pauseOam s).setEnv e := by
  simp only [pauseOam, State.setEnv_oam]
  split <;> rfl

theorem holdOam_setEnv (s : State) (e : Env) : holdOam (s.setEnv e) = (holdOam s).setEnv e := by
  simp only [holdOam, State.setEnv_oam, pauseOam_setEnv]
  split <;> rfl

theorem resumeOam_setEnv (s : State) (e : Env) : resumeOam (s.setEnv e) = (resumeOam s).setEnv e := by
  simp only [resumeOam, State.setEnv_oam]
  split <;> rfl

theorem countStall_setEnv (s : State) (e : Env) : countStall (s.setEnv e) = (countStall s).setEnv e := rfl

theorem repeatRead_setEnv (s : State) (e : Env) : repeatRead (s.setEnv e) =
    (repeatRead s).setEnv ((BusAction.read .repeatRead s.dmc.lastReadAddress).on s.now e) := rfl

theorem readHalf_setEnv {s : State} {e : Env} (h : ∀ addr, mainByte e addr = mainByte s.env addr) :
    readHalf (s.setEnv e) =
      (readHalf s).setEnv ((BusAction.read .bulkCopy (oamSourceAddr s)).on s.now e) := by
  have hbyte : mainByte e (oamSourceAddr (s.setEnv e)) = mainByte s.env (oamSourceAddr s) := h _
  refine State.ext_parts rfl ?_ rfl rfl rfl rfl rfl
  simp only [readHalf, State.setEnv_env, hbyte]
  rfl

theorem fetchCycle_setEnv {s : State} {e : Env} (h : ∀ addr, mainByte e addr = mainByte s.env addr) :
    fetchCycle (s.setEnv e) =
      (fetchCycle s).setEnv ((BusAction.read .sampleFetch s.dmc.sampleAddress).on s.now e) := by
  refine State.ext_parts rfl rfl ?_ rfl rfl rfl rfl
  simp only [fetchCycle, State.setEnv_env, State.setEnv_dmc, h]
  rfl

/-- In surroundings with the same strap and the same answers a tick leaves the same block and does the same
thing on the buses. -/
theorem tick_setEnv (s : State) : ∃ a : BusAction, (tick s).env = a.on (s.now + 1#64) s.env ∧
    ∀ e : Env, e.repeatReadRev = s.env.repeatReadRev → (∀ addr, mainByte e addr = mainByte s.env addr) →
      tick (s.setEnv e) = (tick s).setEnv (a.on (s.now + 1#64) e) := by
  have hk := tickKind s
  generalize tick s = t at hk ⊢
  have hold (e : Env) : holdOam (clocked (s.setEnv e)) = (holdOam (clocked s)).setEnv e :=
    holdOam_setEnv (clocked s) e
  cases hk with
  | unowned hr ha =>
    refine ⟨.silent, rfl, fun e _ _ => ?_⟩
    rw [@tick_of_idle (s.setEnv e) hr ha]
    rfl
  | owed hr ha ho =>
    refine ⟨.silent, rfl, fun e _ _ => ?_⟩
    rw [@tick_of_owed (s.setEnv e) hr ha ho]
    rfl
  | aligning hr ha ho hp =>
    refine ⟨.silent, rfl, fun e _ _ => ?_⟩
    rw [@tick_of_aligning (s.setEnv e) hr ha ho hp]
    rfl
  | reading hr ha ho hp =>
    refine ⟨.read .bulkCopy (oamSourceAddr s), rfl, fun e _ hm => ?_⟩
    rw [@tick_of_reading (s.setEnv e) hr ha ho hp]
    exact @readHalf_setEnv (clocked s) e hm
  | writing hr ha ho hp =>
    refine ⟨.write s.oam.tempValue, rfl, fun e _ _ => ?_⟩
    rw [@tick_of_writing (s.setEnv e) hr ha ho hp]
    rfl
  | completing hr ha ho hp =>
    refine ⟨.silent, rfl, fun e _ _ => ?_⟩
    rw [@tick_of_completing (s.setEnv e) hr ha ho hp]
    rfl
  | stuck hr ha ho hp =>
    refine ⟨.silent, rfl, fun e _ _ => ?_⟩
    rw [@tick_of_stuck (s.setEnv e) hr ha ho hp]
    rfl
  | fetch hr h1 =>
    obtain ⟨-, -, -, henv, -⟩ := resumeOam_frame (fetchCycle (holdOam (clocked s)))
    refine ⟨.read .sampleFetch s.dmc.sampleAddress, ?_, fun e _ hm => ?_⟩
    · rw [henv]
      simp [fetchCycle, BusAction.on]
    · rw [@tick_of_fetch (s.setEnv e) hr h1, hold, ← resumeOam_setEnv,
        @fetchCycle_setEnv (holdOam (clocked s)) e (by simpa using hm)]
      simp
  | repeated hr h2 hv h3 =>
    refine ⟨.read .repeatRead s.dmc.lastReadAddress, ?_, fun e hs hm => ?_⟩
    · simp [repeatRead, countStall, BusAction.on]
    · rw [@tick_of_repeat (s.setEnv e) hr h2 (hs.trans hv) h3, hold, countStall_setEnv, repeatRead_setEnv]
      simp [countStall]
  | counted hr h2 hx =>
    refine ⟨.silent, by simp [countStall, BusAction.on], fun e hs _ => ?_⟩
    rw [@tick_of_count (s.setEnv e) hr h2 (hx.imp_left hs.trans), hold]
    rfl

theorem reportRead_setEnv (addr : Addr) (s : State) (e : Env) :
    reportRead addr (s.setEnv e) = (reportRead addr s).setEnv e := by
  cases hr : s.dmc.rdyLow
  · simp [reportRead, hr]
    rfl
  · simp [reportRead, hr]

/-- Every operation does the same thing on the buses in any surroundings that give the same answers, and
leaves the same block; only a tick does anything on them. -/
theorem perform_setEnv (i : Instr) (s : State) : ∃ (a : BusAction) (now : Stamp),
    (perform i s).env = a.on now s.env ∧
    ∀ e : Env, e.repeatReadRev = s.env.repeatReadRev → (∀ addr, mainByte e addr = mainByte s.env addr) →
      perform i (s.setEnv e) = (perform i s).setEnv (a.on now e) := by
  cases i with
  | tick =>
    obtain ⟨a, henv, h⟩ := tick_setEnv s
    exact ⟨a, s.now + 1#64, henv, h⟩
  | cpuRd addr => exact ⟨.silent, s.now, reportRead_env addr s, fun e _ _ => reportRead_setEnv addr s e⟩
  | oamTrig | dmcTrig | stRead | enWrite | winStart | winEnd | reset =>
    exact ⟨.silent, s.now, rfl, fun _ _ _ => rfl⟩

/-- The command port has no say in the block or on the buses. -/
theorem perform_setPort (i : Instr) (s : State) (v : Port) :
    ∃ v', perform i (s.setPort v) = (perform i s).setPort v' := by
  cases i with
  | tick => exact ⟨v, tick_setPort s v⟩
  | cpuRd addr => exact ⟨v, reportRead_setPort addr s v⟩
  | stRead => exact ⟨{ v with response := some s.il.flag }, rfl⟩
  | oamTrig | dmcTrig | enWrite | winStart | winEnd | reset => exact ⟨v, rfl⟩

/-- Settles O10: the second state is the first with other surroundings and another command port, and so is the
state after it, the surroundings having seen the same action. -/
theorem outcomeDependsOnlyOnBlockAndAnswers : Obligations.OutcomeDependsOnlyOnBlockAndAnswers := by
  intro i s s' t t' hnow hoam hdmc hcl hil hstrap hmain ht ht'
  obtain rfl := eq_perform_of_exec ht
  obtain rfl := eq_perform_of_exec ht'
  obtain ⟨a, now, henv, hsame⟩ := perform_setEnv i s
  obtain ⟨v', hport⟩ := perform_setPort i (s.setEnv s'.env) s'.port
  have hs' : s' = (s.setEnv s'.env).setPort s'.port :=
    State.ext_parts hnow.symm hoam.symm hdmc.symm hcl.symm hil.symm rfl rfl
  have hresp : i = .stRead → (perform i s).port.response = (perform i s').port.response := by
    rintro rfl
    simp [perform, hil]
  have he : perform i s' = ((perform i s).setEnv (a.on now s'.env)).setPort v' := by
    rw [← hsame s'.env hstrap.symm fun addr => (hmain addr).symm, ← hport, ← hs']
  have henv' : (perform i s').env = a.on now s'.env := congrArg State.env he
  refine ⟨(congrArg State.now he).symm, (congrArg State.oam he).symm, (congrArg State.dmc he).symm,
    (congrArg State.cl he).symm, (congrArg State.il he).symm, (congrArg outputs he).symm, hresp,
    ⟨a.accesses now s.env, ?_, ?_, (BusAction.accesses_atDest now (fun _ => rfl) a).symm⟩, ?_, ?_⟩
  · rw [henv, BusAction.on_busLog]
  · rw [henv', BusAction.on_busLog, BusAction.accesses_atDest now hmain]
  · intro hptr
    rw [henv, henv']
    cases a <;> simp [BusAction.on, hptr]
  · intro hptr hsec
    rw [henv, henv']
    cases a <;> simp [BusAction.on, hptr, hsec]

end Sys2Proof.Machine
end

section
/-! PROOFS. The interrupt side and the DMA side do not influence each other (60_exceptions.md R188). -/

namespace Sys2Proof.Machine

/-- Two runs, one of them without the operations that `p` leaves out, stay related when those left out keep the
relation alone and the others keep it together. -/
theorem performAll_filter {R : State → State → Prop} {p : Instr → Bool}
    (hskip : ∀ i s u, p i = false → R s u → R (perform i (withdrawResponse s)) u)
    (hboth : ∀ i s u, p i = true → R s u → R (perform i (withdrawResponse s)) (perform i (withdrawResponse u)))
    (ops : List Instr) {s u : State} (h : R s u) : R (performAll ops s) (performAll (ops.filter p) u) := by
  induction ops generalizing s u with
  | nil => exact h
  | cons i is ih =>
    cases hp : p i with
    | false =>
      rw [List.filter_cons_of_neg (by simp [hp])]
      exact ih (hskip i s u hp h)
    | true =>
      rw [List.filter_cons_of_pos hp]
      exact ih (hboth i s u hp h)

/-- The two states differ at most in the Interrupt Ledger and the command port. -/
def SameDmaSide (s u : State) : Prop := ∃ l v, s = (u.setIl l).setPort v

/-- The two states have the same Interrupt Ledger and time base. -/
def SameInterruptSide (s u : State) : Prop := s.il = u.il ∧ s.now = u.now

theorem reportRead_setIl (addr : Addr) (s : State) (l : InterruptLedger) :
    reportRead addr (s.setIl l) = (reportRead addr s).setIl l := by
  cases hr : s.dmc.rdyLow
  · simp [reportRead, hr]
    rfl
  · simp [reportRead, hr]

/-- All operations but the four of the Interrupt Ledger. -/
def onDmaSide : Instr → Bool
  | .winStart => false
  | .winEnd => false
  | .stRead => false
  | .enWrite _ => false
  | .tick => true
  | .oamTrig _ _ => true
  | .dmcTrig _ => true
  | .cpuRd _ => true
  | .reset => true

/-- All operations but the two triggers and the read report. -/
def onInterruptSide : Instr → Bool
  | .oamTrig _ _ => false
  | .dmcTrig _ => false
  | .cpuRd _ => false
  | .winStart => true
  | .winEnd => true
  | .stRead => true
  | .enWrite _ => true
  | .tick => true
  | .reset => true

theorem SameDmaSide.withdraw {s u : State} (h : SameDmaSide s u) :
    SameDmaSide (withdrawResponse s) (withdrawResponse u) := by
  obtain ⟨l, v, rfl⟩ := h
  exact ⟨l, { v with response := none }, rfl⟩

theorem SameDmaSide.withdraw_left {s u : State} (h : SameDmaSide s u) :
    SameDmaSide (withdrawResponse s) u := by
  obtain ⟨l, v, rfl⟩ := h
  exact ⟨l, { v with response := none }, rfl⟩

/-- An operation of the Interrupt Ledger writes nothing of the DMA side. -/
theorem perform_off_dmaSide {i : Instr} (hi : onDmaSide i = false) {s u : State} (h : SameDmaSide s u) :
    SameDmaSide (perform i s) u := by
  obtain ⟨l, v, rfl⟩ := h
  cases i with
  | winStart | winEnd | stRead | enWrite => exact ⟨_, _, rfl⟩
  | tick | oamTrig | dmcTrig | cpuRd | reset => cases hi

/-- An operation of the DMA side does not look at the other side. -/
theorem perform_on_dmaSide {i : Instr} (hi : onDmaSide i = true) {s u : State} (h : SameDmaSide s u) :
    SameDmaSide (perform i s) (perform i u) := by
  obtain ⟨l, v, rfl⟩ := h
  cases i with
  | tick => exact ⟨l, v, by rw [perform, tick_setPort, tick_setIl]⟩
  | cpuRd addr => exact ⟨l, v, by rw [perform, reportRead_setPort, reportRead_setIl]⟩
  | oamTrig | dmcTrig | reset => exact ⟨_, _, rfl⟩
  | winStart | winEnd | stRead | enWrite => cases hi

theorem performAll_filter_dmaSide (ops : List Instr) (s : State) :
    SameDmaSide (performAll ops s) (performAll (ops.filter onDmaSide) s) :=
  performAll_filter (fun _ _ _ hi h => perform_off_dmaSide hi h.withdraw_left)
    (fun _ _ _ hi h => perform_on_dmaSide hi h.withdraw) ops ⟨s.il, s.port, rfl⟩

/-- A trigger or a read report writes nothing of the interrupt side. -/
theorem perform_off_interruptSide {i : Instr} (hi : onInterruptSide i = false) {s u : State}
    (h : SameInterruptSide s u) : SameInterruptSide (perform i s) u := by
  cases i with
  | oamTrig | dmcTrig => exact h
  | cpuRd addr => rwa [SameInterruptSide, perform, reportRead_il, reportRead_now]
  | winStart | winEnd | stRead | enWrite | tick | reset => cases hi

/-- Any other operation leaves of the interrupt side what its ledger and the time base make of it. -/
theorem perform_on_interruptSide {i : Instr} (hi : onInterruptSide i = true) {s u : State}
    (h : SameInterruptSide s u) : SameInterruptSide (perform i s) (perform i u) := by
  obtain ⟨hil, hnow⟩ := h
  cases i with
  | tick => exact ⟨by simpa [perform] using hil, by simp [perform, hnow]⟩
  | winStart => exact ⟨by simp [perform, windowStart, hil, hnow], hnow⟩
  | winEnd => exact ⟨by simp [perform, windowEnd, hil, hnow], hnow⟩
  | stRead => exact ⟨by simp [perform, readStatus, hil, hnow], hnow⟩
  | enWrite en => exact ⟨by simp [perform, writeEnable, hil], hnow⟩
  | reset => exact ⟨rfl, rfl⟩
  | oamTrig | dmcTrig | cpuRd => cases hi

theorem performAll_filter_interruptSide (ops : List Instr) (s : State) :
    SameInterruptSide (performAll ops s) (performAll (ops.filter onInterruptSide) s) :=
  performAll_filter (fun _ _ _ hi h => perform_off_interruptSide hi h)
    (fun _ _ _ hi h => perform_on_interruptSide hi h) ops ⟨rfl, rfl⟩

/-- Settles O40: an operation left out does not touch the side compared, and one kept does the same to it in
both runs. -/
theorem ledgersAreIndependent : Obligations.LedgersAreIndependent := by
  refine ⟨fun ops s t u ht hu => ?_, fun ops s t u ht hu => ?_⟩
  · have hu' : u = performAll (ops.filter onDmaSide) s := eq_performAll_of_runOps hu
    obtain ⟨l, v, he⟩ := performAll_filter_dmaSide ops s
    rw [eq_performAll_of_runOps ht, hu', he]
    exact ⟨rfl, rfl, rfl, rfl, rfl, rfl⟩
  · have hu' : u = performAll (ops.filter onInterruptSide) s := eq_performAll_of_runOps hu
    obtain ⟨hil, hnow⟩ := performAll_filter_interruptSide ops s
    rw [eq_performAll_of_runOps ht, hu', intLine, intLine, hil, hnow]
    exact ⟨rfl, rfl, rfl⟩

end Sys2Proof.Machine
end

section
/-! PROOFS. What a line of a trace expands to (30_encoding.md R69, R70). -/

namespace Sys2Proof.Machine

theorem expandLine_isSome (l : TraceLine) (s : State) : (expandLine l s).isSome = l.wellFormed := by
  unfold expandLine
  cases l.wellFormed <;> rfl

theorem expandLine_of_wellFormed (l : TraceLine) (h : l.wellFormed = true) (s : State) :
    expandLine l s = some (lineOps l s) := if_pos h

theorem pageInRange_toNat (page : Byte) : pageInRange page.toNat = true := by
  have := page.isLt
  simp [pageInRange]
  omega

theorem bitInRange_toNat (b : Bool) : bitInRange b.toNat = true := by cases b <;> rfl

theorem addrInRange_toNat (addr : Addr) : addrInRange addr.toNat = true := by
  have := addr.isLt
  simp [addrInRange]
  omega

theorem toNat_beq_one (b : Bool) : (b.toNat == 1) = b := by cases b <;> rfl

/-! `RUN_UNTIL_IDLE`. -/

theorem ticksToIdle_le (fuel : Nat) (s : State) : ticksToIdle fuel s ≤ fuel := by
  induction fuel generalizing s with
  | zero => exact Nat.le_refl 0
  | succ fuel ih =>
    rw [ticksToIdle]
    split
    · exact Nat.succ_le_succ (ih _)
    · exact Nat.zero_le _

/-- `halt` is high before each of the ticks. -/
theorem halt_of_lt_ticksToIdle {fuel k : Nat} {s : State} (h : k < ticksToIdle fuel s) :
    halt (ticks k s) = true := by
  induction fuel generalizing s k with
  | zero => exact absurd h (Nat.not_lt_zero k)
  | succ fuel ih =>
    rw [ticksToIdle] at h
    split at h
    next hh =>
      cases k with
      | zero => exact hh
      | succ k => exact @ih k (tick s) (by omega)
    next => exact absurd h (Nat.not_lt_zero k)

/-- Ticks to spare mean that `halt` was found low. -/
theorem halt_ticksToIdle {fuel : Nat} {s : State} (h : ticksToIdle fuel s < fuel) :
    halt (ticks (ticksToIdle fuel s) s) = false := by
  induction fuel generalizing s with
  | zero => exact absurd h (Nat.not_lt_zero _)
  | succ fuel ih =>
    rw [ticksToIdle] at h ⊢
    split at h
    next hh =>
      rw [if_pos hh]
      exact ih (Nat.lt_of_succ_lt_succ h)
    next hh =>
      rw [if_neg hh]
      exact Bool.eq_false_iff.mpr hh

/-- Settles O50: a line expands when its operands are in range, and then to `lineOps`. -/
theorem traceLinesExpand : Obligations.TraceLinesExpand := by
  intro s
  refine ⟨fun page odd => ?_, fun addr => ?_, fun addr => ?_, fun en => ?_, fun page => ?_, rfl,
    fun page odd => ?_, fun addr => ?_, fun addr => ?_, rfl, fun en => ?_, rfl, rfl, rfl, fun n => rfl,
    fun page => ?_, ticksToIdle 518 s, ticksToIdle_le 518 s, rfl, fun k => halt_of_lt_ticksToIdle,
    halt_ticksToIdle⟩
  · simp [expandLine_isSome, TraceLine.wellFormed, pageInRange, bitInRange]
  · simp [expandLine_isSome, TraceLine.wellFormed, addrInRange]
  · simp [expandLine_isSome, TraceLine.wellFormed, addrInRange]
  · simp [expandLine_isSome, TraceLine.wellFormed, bitInRange]
  · simp [expandLine_isSome, TraceLine.wellFormed, pageInRange]
  · rw [expandLine_of_wellFormed _ (by simp [TraceLine.wellFormed, pageInRange_toNat, bitInRange_toNat]), lineOps,
      BitVec.ofNat_toNat, BitVec.setWidth_eq, toNat_beq_one]
  · rw [expandLine_of_wellFormed (.dmcTrig _) (addrInRange_toNat addr), lineOps, BitVec.ofNat_toNat,
      BitVec.setWidth_eq]
  · rw [expandLine_of_wellFormed (.cpuRd _) (addrInRange_toNat addr), lineOps, BitVec.ofNat_toNat,
      BitVec.setWidth_eq]
  · rw [expandLine_of_wellFormed (.enWrite _) (bitInRange_toNat en), lineOps, toNat_beq_one]
  · rw [expandLine_of_wellFormed (.oamStart _) (pageInRange_toNat page), lineOps, BitVec.ofNat_toNat,
      BitVec.setWidth_eq, parityOf]

end Sys2Proof.Machine
end

section
/-! PROOFS. One processor cycle in any order of its events, and the two orders compared (60_exceptions.md R184). -/

namespace Sys2Proof.Machine

/-! The events of a cycle. -/

theorem mem_windowOps {w : Option WindowEdge} {i : Instr} (h : i ∈ windowOps w) :
    i = .winStart ∨ i = .winEnd := by
  match w with
  | none => exact absurd h List.not_mem_nil
  | some .start => exact .inl (List.mem_singleton.mp h)
  | some .finish => exact .inr (List.mem_singleton.mp h)

theorem mem_sampleOps {r : Option Addr} {i : Instr} (h : i ∈ sampleOps r) : ∃ addr, i = .dmcTrig addr := by
  match r with
  | none => exact absurd h List.not_mem_nil
  | some addr => exact ⟨addr, List.mem_singleton.mp h⟩

theorem mem_accessOps {odd : Bool} {a : Option ProcessorAccess} {i : Instr} (h : i ∈ accessOps odd a) :
    (∃ addr, i = .cpuRd addr) ∨ i = .stRead ∨ (∃ page, i = .oamTrig page odd) ∨ ∃ en, i = .enWrite en := by
  match a with
  | none | some .otherWrite => exact absurd h List.not_mem_nil
  | some (.read addr) => exact .inl ⟨addr, List.mem_singleton.mp h⟩
  | some (.statusRead addr) =>
    obtain h | h := List.mem_pair.mp h
    · exact .inl ⟨addr, h⟩
    · exact .inr (.inl h)
  | some (.triggerWrite page) => exact .inr (.inr (.inl ⟨page, List.mem_singleton.mp h⟩))
  | some (.enableWrite en) => exact .inr (.inr (.inr ⟨en, List.mem_singleton.mp h⟩))

theorem processorOps_of_halt (e : CycleEvents) {s : State} (h : halt s = true) : processorOps e s = [] := if_pos h

theorem processorOps_of_not_halt (e : CycleEvents) {s : State} (h : halt s = false) :
    processorOps e s = accessOps (parityOf s) e.access := by simp [processorOps, h]

/-- No event is a tick or a `RESET`. -/
theorem cycleEvents_ne {e : CycleEvents} {s : State} {i : Instr} (h : i ∈ cycleEvents e s) :
    i ≠ .tick ∧ i ≠ .reset := by
  simp only [cycleEvents, List.mem_append] at h
  obtain (h | h) | h := h
  · obtain rfl | rfl := mem_windowOps h <;> simp
  · cases hh : halt s with
    | true => exact absurd (processorOps_of_halt e hh ▸ h) List.not_mem_nil
    | false =>
      rw [processorOps_of_not_halt e hh] at h
      obtain ⟨_, rfl⟩ | rfl | ⟨_, rfl⟩ | ⟨_, rfl⟩ := mem_accessOps h <;> simp
  · obtain ⟨_, rfl⟩ := mem_sampleOps h
    simp

/-- Under `halt` only the window and the sample request give operations (70_reset_and_hazards.md R210). -/
theorem cycleEvents_of_halt {e : CycleEvents} {s : State} {i : Instr} (hh : halt s = true)
    (h : i ∈ cycleEvents e s) : i = .winStart ∨ i = .winEnd ∨ ∃ addr, i = .dmcTrig addr := by
  simp only [cycleEvents, processorOps_of_halt e hh, List.append_nil, List.mem_append] at h
  obtain h | h := h
  · obtain h | h := mem_windowOps h
    · exact .inl h
    · exact .inr (.inl h)
  · exact .inr (.inr (mem_sampleOps h))

/-- Settles O52: an order of the events has the members of `cycleEvents`, none of them a tick. -/
theorem canonicalCycleHonoursHalt : Obligations.CanonicalCycleHonoursHalt := by
  refine fun e s => ⟨⟨_, List.Perm.refl _, rfl⟩, ⟨_, ?_, rfl⟩, ?_⟩
  · rw [cycleEvents, List.append_assoc, List.append_assoc]
    exact List.perm_append_comm.append_left _
  · rintro ops ⟨events, hperm, rfl⟩
    have ne : ∀ i ∈ events, i ≠ .tick ∧ i ≠ .reset := fun i hi => cycleEvents_ne (hperm.mem_iff.mp hi)
    refine ⟨?_, by simp, ?_, fun hh i hi => ?_⟩
    · rw [List.count_append, List.count_eq_zero_of_not_mem fun h => (ne _ h).1 rfl]
      rfl
    · simpa using fun h => (ne _ h).2 rfl
    · obtain hi | hi := List.mem_append.mp hi
      · obtain h | h | h := cycleEvents_of_halt hh (hperm.mem_iff.mp hi)
        · exact .inl h
        · exact .inr (.inl h)
        · exact .inr (.inr (.inl h))
      · exact .inr (.inr (.inr (List.mem_singleton.mp hi)))

/-! The two orders of a cycle: a read reported before the sample request is kept, one reported after it is
not. -/

/-- The state with another last read address. -/
def State.withLastRead (s : State) (addr : Addr) : State := s.setDmc { s.dmc with lastReadAddress := addr }

theorem State.withLastRead_self {s : State} {addr : Addr} (h : s.dmc.lastReadAddress = addr) :
    s.withLastRead addr = s := by
  subst h
  rfl

theorem holdOam_withLastRead (s : State) (addr : Addr) :
    holdOam (s.withLastRead addr) = (holdOam s).withLastRead addr := by
  obtain ⟨ha, hp, he⟩ | ⟨ha, hp, he⟩ | ⟨hx, he⟩ := holdOam_trichotomy s <;> rw [he]
  · exact @holdOam_of_reading (s.withLastRead addr) ha hp
  · exact @holdOam_of_writing (s.withLastRead addr) ha hp
  · exact @holdOam_of_other (s.withLastRead addr) hx

/-- The first stall cycle does not look at the last read address (41_sample_fetch_dma.md R105). -/
theorem tick_withLastRead {s : State} (hr : s.dmc.rdyLow = true) (h4 : s.dmc.stallCyclesRemaining = 4)
    (addr : Addr) : tick (s.withLastRead addr) = (tick s).withLastRead addr := by
  have h4' : s.dmc.stallCyclesRemaining.val = 4 := by rw [h4]; rfl
  have hhold : holdOam (clocked (s.withLastRead addr)) = (holdOam (clocked s)).withLastRead addr :=
    holdOam_withLastRead (clocked s) addr
  rw [@tick_of_count (s.withLastRead addr) hr (by simp [State.withLastRead, h4]) (.inr h4'),
    tick_of_count hr (by omega) (.inr h4'), hhold]
  rfl

theorem tick_lastRead (s : State) : (tick s).dmc.lastReadAddress = s.dmc.lastReadAddress := by
  obtain ⟨-, hlast, -⟩ := tick_keeps_addresses s
  exact hlast

/-- Only a read report (and `RESET`) writes the last read address. -/
theorem perform_lastRead {i : Instr} (hi : ∀ addr, i ≠ .cpuRd addr) (hreset : i ≠ .reset) (s : State) :
    (perform i s).dmc.lastReadAddress = s.dmc.lastReadAddress := by
  cases i with
  | tick => exact tick_lastRead s
  | cpuRd addr => exact absurd rfl (hi addr)
  | reset => exact absurd rfl hreset
  | oamTrig | dmcTrig | stRead | enWrite | winStart | winEnd => rfl

theorem performAll_lastRead {ops : List Instr} (h : ∀ i ∈ ops, (∀ addr, i ≠ .cpuRd addr) ∧ i ≠ .reset)
    (s : State) : (performAll ops s).dmc.lastReadAddress = s.dmc.lastReadAddress :=
  performAll_induction (fun u => u.dmc.lastReadAddress = s.dmc.lastReadAddress)
    (fun i hi _ hu => (perform_lastRead (h i hi).1 (h i hi).2 _).trans hu) rfl

/-- The window events write nothing of the sample-fetch engine. -/
theorem performAll_windowOps_dmc (w : Option WindowEdge) (s : State) :
    (performAll (windowOps w) s).dmc = s.dmc := by
  match w with
  | none | some .start | some .finish => rfl

/-- The processor's operations of a cycle report no read. -/
def ReportsNoRead (e : CycleEvents) (s : State) : Prop :=
  halt s = true ∨ ∀ addr, e.access ≠ some (.read addr) ∧ e.access ≠ some (.statusRead addr)

theorem exists_read_of_not_reportsNoRead {e : CycleEvents} {s : State} (h : ¬ ReportsNoRead e s) :
    halt s = false ∧ ∃ addr, e.access = some (.read addr) ∨ e.access = some (.statusRead addr) := by
  simp only [ReportsNoRead, not_or, not_forall, Bool.not_eq_true, not_and_or, not_not] at h
  exact h

/-- An access that is no read commutes with the sample request. -/
theorem accessOps_sampleOps {a : Option ProcessorAccess}
    (h : ∀ addr, a ≠ some (.read addr) ∧ a ≠ some (.statusRead addr)) (odd : Bool) (r : Option Addr) (s : State) :
    performAll (accessOps odd a ++ sampleOps r) s = performAll (sampleOps r ++ accessOps odd a) s := by
  match a, r with
  | none, none | none, some _ => rfl
  | some (.read addr), _ => exact absurd rfl (h addr).1
  | some (.statusRead addr), _ => exact absurd rfl (h addr).2
  | some (.triggerWrite _), none | some (.triggerWrite _), some _ => rfl
  | some (.enableWrite _), none | some (.enableWrite _), some _ => rfl
  | some .otherWrite, none | some .otherWrite, some _ => rfl

theorem accessOps_ne_cpuRd {a : Option ProcessorAccess}
    (h : ∀ addr, a ≠ some (.read addr) ∧ a ≠ some (.statusRead addr)) {odd : Bool} {i : Instr}
    (hi : i ∈ accessOps odd a) (addr : Addr) : i ≠ .cpuRd addr := by
  rintro rfl
  match a with
  | none | some .otherWrite => exact absurd hi List.not_mem_nil
  | some (.read addr') => exact (h addr').1 rfl
  | some (.statusRead addr') => exact (h addr').2 rfl
  | some (.triggerWrite _) | some (.enableWrite _) => simp [accessOps] at hi

theorem ReportsNoRead.ne_cpuRd {e : CycleEvents} {s : State} (h : ReportsNoRead e s) {i : Instr}
    (hi : i ∈ processorOps e s) (addr : Addr) : i ≠ .cpuRd addr := by
  cases hh : halt s with
  | true => exact absurd (processorOps_of_halt e hh ▸ hi) List.not_mem_nil
  | false =>
    rw [processorOps_of_not_halt e hh] at hi
    exact accessOps_ne_cpuRd (h.resolve_left (by simp [hh])) hi addr

theorem ReportsNoRead.canonicalCycle_ne {e : CycleEvents} {s : State} (h : ReportsNoRead e s) {i : Instr}
    (hi : i ∈ canonicalCycle e s) : (∀ addr, i ≠ .cpuRd addr) ∧ i ≠ .reset := by
  obtain hi | hi := List.mem_append.mp hi
  · refine ⟨fun addr => ?_, (cycleEvents_ne hi).2⟩
    simp only [cycleEvents, List.mem_append] at hi
    obtain (hi | hi) | hi := hi
    · obtain rfl | rfl := mem_windowOps hi <;> simp
    · exact h.ne_cpuRd hi addr
    · obtain ⟨_, rfl⟩ := mem_sampleOps hi
      simp
  · rw [List.mem_singleton.mp hi]
    simp

theorem performAll_canonicalCycle (e : CycleEvents) (s : State) :
    performAll (canonicalCycle e s) s = tick (withdrawResponse
      (performAll (processorOps e s ++ sampleOps e.sampleRequest) (performAll (windowOps e.window) s))) := by
  rw [canonicalCycle, cycleEvents, performAll_append, List.append_assoc, performAll_append]
  rfl

theorem performAll_listedCycle (e : CycleEvents) (s : State) :
    performAll (listedCycle e s) s = tick (withdrawResponse
      (performAll (sampleOps e.sampleRequest ++ processorOps e s) (performAll (windowOps e.window) s))) := by
  rw [listedCycle, performAll_append, List.append_assoc, performAll_append]
  rfl

/-- With no read reported both orders end in the same state. -/
theorem ReportsNoRead.cycles_agree {e : CycleEvents} {s : State} (h : ReportsNoRead e s) :
    performAll (listedCycle e s) s = performAll (canonicalCycle e s) s := by
  rw [performAll_listedCycle, performAll_canonicalCycle]
  cases hh : halt s with
  | true => rw [processorOps_of_halt e hh, List.append_nil, List.nil_append]
  | false =>
    rw [processorOps_of_not_halt e hh, accessOps_sampleOps (h.resolve_left (by simp [hh]))]

theorem lastRead_after_read {v : State} (hr : v.dmc.rdyLow = false) (addr : Addr) {tail : List Instr}
    (ht : tail = [] ∨ tail = [.stRead]) : (performAll (.cpuRd addr :: tail) v).dmc.lastReadAddress = addr := by
  have hkept : (perform (.cpuRd addr) (withdrawResponse v)).dmc.lastReadAddress = addr :=
    congrArg (·.dmc.lastReadAddress) (@reportRead_of_not_rdyLow (withdrawResponse v) hr addr)
  obtain rfl | rfl := ht
  · exact hkept
  · exact hkept

/-- A read reported before a sample request, after it, and the states those leave once the response is
withdrawn: they differ in the last read address alone. -/
theorem read_around_sampleRequest {v : State} (hr : v.dmc.rdyLow = false) (addr b : Addr) {tail : List Instr}
    (ht : tail = [] ∨ tail = [.stRead]) :
    ∃ u, performAll (Instr.cpuRd addr :: tail ++ [Instr.dmcTrig b]) v = u ∧
      withdrawResponse (performAll ([Instr.dmcTrig b] ++ Instr.cpuRd addr :: tail) v) =
        (withdrawResponse u).withLastRead v.dmc.lastReadAddress ∧
      u.dmc.rdyLow = true ∧ u.dmc.stallCyclesRemaining = 4 ∧ u.dmc.lastReadAddress = addr := by
  have hkept : perform (.cpuRd addr) (withdrawResponse v) = (withdrawResponse v).withLastRead addr :=
    @reportRead_of_not_rdyLow (withdrawResponse v) hr addr
  have hlost : perform (.cpuRd addr) (withdrawResponse (perform (.dmcTrig b) (withdrawResponse v))) =
      withdrawResponse (perform (.dmcTrig b) (withdrawResponse v)) := reportRead_of_rdyLow rfl addr
  obtain rfl | rfl := ht
  · simp only [List.cons_append, List.nil_append, performAll_cons, performAll_nil, hkept, hlost]
    exact ⟨_, rfl, rfl, rfl, rfl, rfl⟩
  · simp only [List.cons_append, List.nil_append, performAll_cons, performAll_nil, hkept, hlost]
    exact ⟨_, rfl, rfl, rfl, rfl, rfl⟩

/-- The processor's operations of a cycle in which it reports a read. -/
theorem processorOps_of_read {e : CycleEvents} {s : State} {addr : Addr} (hh : halt s = false)
    (ha : e.access = some (.read addr) ∨ e.access = some (.statusRead addr)) :
    ∃ tail, (tail = [] ∨ tail = [.stRead]) ∧ processorOps e s = .cpuRd addr :: tail := by
  rw [processorOps_of_not_halt e hh]
  obtain ha | ha := ha <;> rw [ha]
  · exact ⟨[], .inl rfl, rfl⟩
  · exact ⟨[.stRead], .inr rfl, rfl⟩

/-- With a read reported: the canonical order keeps it; the listed order keeps it if no sample is requested, and
otherwise loses it and differs in nothing else. -/
theorem cycles_with_read {e : CycleEvents} {s : State} {addr : Addr} (hh : halt s = false)
    (ha : e.access = some (.read addr) ∨ e.access = some (.statusRead addr)) :
    (performAll (canonicalCycle e s) s).dmc.lastReadAddress = addr ∧
    performAll (listedCycle e s) s = (performAll (canonicalCycle e s) s).withLastRead
      (if e.sampleRequest = none then addr else s.dmc.lastReadAddress) := by
  obtain ⟨hr, -⟩ := (halt_eq_false_iff s).mp hh
  obtain ⟨tail, htail, hops⟩ := processorOps_of_read hh ha
  have hdmc := performAll_windowOps_dmc e.window s
  rw [performAll_listedCycle, performAll_canonicalCycle, hops]
  generalize performAll (windowOps e.window) s = v at hdmc ⊢
  have hrv : v.dmc.rdyLow = false := by rw [hdmc, hr]
  cases hq : e.sampleRequest with
  | none =>
    have hlast : (performAll (.cpuRd addr :: tail) v).dmc.lastReadAddress = addr :=
      lastRead_after_read hrv addr htail
    have hkept : (tick (withdrawResponse (performAll (.cpuRd addr :: tail) v))).dmc.lastReadAddress = addr :=
      (tick_lastRead _).trans hlast
    rw [sampleOps, List.append_nil, List.nil_append, if_pos rfl]
    exact ⟨hkept, (State.withLastRead_self hkept).symm⟩
  | some b =>
    obtain ⟨u, hcanonical, hlisted, hlow, hfour, hlast⟩ := read_around_sampleRequest hrv addr b htail
    rw [if_neg (by simp), ← hdmc, sampleOps, hlisted, hcanonical]
    exact ⟨(tick_lastRead _).trans hlast, @tick_withLastRead (withdrawResponse u) hlow hfour _⟩

/-- Settles O53: `cycles_with_read` in the cycles that report a read, `ReportsNoRead.cycles_agree` in the
others. -/
theorem canonicalCycleKeepsReadReport : Obligations.CanonicalCycleKeepsReadReport := by
  intro e s
  refine ⟨_, _, runOps_eq_next _ _, runOps_eq_next _ _, ?_, fun addr hh ha => ?_, fun h => ?_⟩
  · by_cases h : ReportsNoRead e s
    · rw [h.cycles_agree]
    · obtain ⟨hh, addr, ha⟩ := exists_read_of_not_reportsNoRead h
      rw [(cycles_with_read hh ha).2]
      rfl
  · obtain ⟨hkept, hlisted⟩ := cycles_with_read hh ha
    refine ⟨hkept, ?_⟩
    rw [hlisted]
    rfl
  · have h : ReportsNoRead e s := h
    exact ⟨performAll_lastRead (fun _ hi => h.canonicalCycle_ne hi) s, h.cycles_agree⟩

end Sys2Proof.Machine
end

section
/-! PROOFS. A whole stall: four ticks, their accesses, and what they cost a transfer in progress
(41_sample_fetch_dma.md R107, 42_arbitration_tick.md R133, R134, 70_reset_and_hazards.md R213). -/

namespace Sys2Proof.Machine

/-! Runs of ticks. -/

theorem ticks_succ_eq_tick (n : Nat) (s : State) : ticks (n + 1) s = tick (ticks n s) := by
  rw [ticks_add, ticks_succ, ticks_zero]

theorem ticks_now (n : Nat) (s : State) : (ticks n s).now = s.now + BitVec.ofNat 64 n := by
  induction n with
  | zero => simp
  | succ n ih => rw [ticks_succ_eq_tick, tick_now, ih, BitVec.add_assoc, BitVec.ofNat_add]

theorem ticks_strap (n : Nat) (s : State) : (ticks n s).env.repeatReadRev = s.env.repeatReadRev := by
  induction n with
  | zero => rfl
  | succ n ih => rw [ticks_succ_eq_tick, tick_strap, ih]

theorem ticks_addresses (n : Nat) (s : State) :
    (ticks n s).dmc.sampleAddress = s.dmc.sampleAddress ∧
    (ticks n s).dmc.lastReadAddress = s.dmc.lastReadAddress := by
  induction n with
  | zero => exact ⟨rfl, rfl⟩
  | succ n ih =>
    obtain ⟨hsample, hlast, -⟩ := tick_keeps_addresses (ticks n s)
    rw [ticks_succ_eq_tick, hsample, hlast]
    exact ih

/-- One operation that answers nothing, and then ticks. -/
theorem runOps_cons_ticks (i : Instr) (s : State)
    (h : (perform i (withdrawResponse s)).port.response = none) (n : Nat) :
    runOps (i :: List.replicate n .tick) s = .next (ticks n (perform i (withdrawResponse s))) := by
  rw [runOps_eq_next, performAll_cons, performAll_replicate_tick n h]

/-! The stall counts down. -/

/-- A stall is in progress with `n` cycles left. -/
def Stalling (n : Nat) (s : State) : Prop := s.dmc.rdyLow = true ∧ s.dmc.stallCyclesRemaining.val = n

theorem stalling_startFetch (addr : Addr) (s : State) : Stalling 4 (startFetch addr s) := ⟨rfl, rfl⟩

theorem Stalling.tick {n : Nat} {s : State} (h : Stalling (n + 1) s) (hn : 1 ≤ n) : Stalling n (tick s) := by
  obtain ⟨hr, hc⟩ := h
  obtain ⟨hdmc, -⟩ := tick_stalling hr (by omega)
  have := @stallPred_val_succ s.dmc.stallCyclesRemaining (by omega)
  exact ⟨by rw [hdmc, hr], by simp only [hdmc]; omega⟩

theorem Stalling.ticks {n : Nat} {s : State} (h : Stalling n s) (k : Nat) (hk : k < n) :
    Stalling (n - k) (Machine.ticks k s) := by
  induction k with
  | zero => exact h
  | succ k ih =>
    rw [ticks_succ_eq_tick]
    exact Stalling.tick (by rw [show n - (k + 1) + 1 = n - k by omega]; exact ih (by omega)) (by omega)

/-! The accesses of a stall. -/

section Stall
variable {u : State} (h : Stalling 4 u)
include h

theorem Stalling.env_first : (Machine.ticks 1 u).env = u.env :=
  tick_env_of_count h.1 (by rw [h.2]; decide) (.inr h.2)

/-- Without the strap no stall cycle before the last makes an access. -/
theorem Stalling.env_silent (hv : u.env.repeatReadRev = false) {k : Nat} (hk : k ≤ 3) :
    (Machine.ticks k u).env = u.env := by
  induction k with
  | zero => rfl
  | succ k ih =>
    obtain ⟨hr, hc⟩ := h.ticks k (by omega)
    rw [ticks_succ_eq_tick, tick_env_of_count hr (by omega) (.inl (by rw [ticks_strap, hv])), ih (by omega)]

/-- With the strap the second and the third stall cycle read the last reported address. -/
theorem Stalling.env_repeat (hv : u.env.repeatReadRev = true) (k : Nat) (hk : 1 ≤ k) (hk' : k ≤ 2) :
    ∃ v : Byte, (Machine.ticks (k + 1) u).env.busLog = (Machine.ticks k u).env.busLog ++
      [.read .repeatRead (u.now + BitVec.ofNat 64 (k + 1)) u.dmc.lastReadAddress v] := by
  obtain ⟨hr, hc⟩ := h.ticks k (by omega)
  rw [ticks_succ_eq_tick, tick_env_of_repeat hr (by omega) (by rw [ticks_strap, hv]) (by omega),
    (ticks_addresses k u).2, ticks_now, BitVec.add_assoc, ← BitVec.ofNat_add]
  exact ⟨_, rfl⟩

/-- The fourth stall cycle fetches and ends the stall. -/
theorem Stalling.fetch :
    (Machine.ticks 4 u).dmc.rdyLow = false ∧
    (Machine.ticks 4 u).dmc.sampleByte = mainByte (Machine.ticks 3 u).env u.dmc.sampleAddress ∧
    (Machine.ticks 4 u).env.busLog = (Machine.ticks 3 u).env.busLog ++
      [.read .sampleFetch (u.now + 4#64) u.dmc.sampleAddress
        (mainByte (Machine.ticks 3 u).env u.dmc.sampleAddress)] := by
  obtain ⟨hr, hc⟩ := h.ticks 3 (by decide)
  obtain ⟨hdmc, henv, -⟩ := tick_fetch hr hc.le
  have haddr := (ticks_addresses 3 u).1
  rw [ticks_succ_eq_tick, hdmc, henv, haddr, ticks_now, BitVec.add_assoc]
  exact ⟨rfl, rfl, rfl⟩

end Stall

/-- Settles O41: the count after `k` ticks is `4 - k`, and each stall cycle's access is that of its count. -/
theorem stallLastsExactlyFourTicks : Obligations.StallLastsExactlyFourTicks := by
  intro addr s
  have hstall := stalling_startFetch addr (withdrawResponse s)
  obtain ⟨hlow, hbyte, hfetch⟩ := hstall.fetch
  refine ⟨_, runOps_cons_ticks (.dmcTrig addr) s rfl, fun k hk => ?_, hlow,
    congrArg Env.busLog hstall.env_first, fun hv => congrArg Env.busLog (hstall.env_silent hv (by decide)),
    fun hv => ?_, ?_, ?_, rfl⟩
  · obtain ⟨hr, -⟩ := hstall.ticks k hk
    exact ⟨hr, owner_of_rdyLow hr, halt_of_rdyLow hr⟩
  · obtain ⟨v2, h2⟩ := hstall.env_repeat hv 1 (by decide) (by decide)
    obtain ⟨v3, h3⟩ := hstall.env_repeat hv 2 (by decide) (by decide)
    refine ⟨v2, v3, ?_, h3⟩
    rw [hstall.env_first] at h2
    exact h2
  · rw [← hbyte] at hfetch
    exact hfetch
  · exact hbyte

/-! What a stall does to a transfer in progress. -/

theorem holdOam_oam {s : State} (ha : s.oam.active = true ∨ s.oam.phase = .idle) :
    (holdOam s).oam = { s.oam with phase := s.oam.phase.held } := by
  obtain ⟨-, hp, he⟩ | ⟨-, hp, he⟩ | ⟨hx, he⟩ := holdOam_trichotomy s
  · rw [he, hp]; rfl
  · rw [he, hp]; rfl
  · have hsame : s.oam.phase.held = s.oam.phase := by
      cases hp : s.oam.phase <;> simp_all [Phase.held]
    rw [he, hsame]

theorem Phase.held_held (p : Phase) : p.held.held = p.held := by cases p <;> rfl

theorem Phase.isHalfCycle_held (p : Phase) : p.held.isHalfCycle = p.isHalfCycle := by cases p <;> rfl

/-- A stall cycle before the last holds an engine and leaves the owed alignment as it is. -/
theorem Stalling.tick_oam {n : Nat} {s : State} (h : Stalling (n + 1) s) (hn : 1 ≤ n)
    (ha : s.oam.active = true ∨ s.oam.phase = .idle) :
    (Machine.tick s).oam = { s.oam with phase := s.oam.phase.held } ∧
      (Machine.tick s).cl.alignOwed = s.cl.alignOwed := by
  obtain ⟨hr, hc⟩ := h
  obtain ⟨-, hoam, hcl⟩ := tick_stalling hr (by omega)
  exact ⟨hoam.trans (@holdOam_oam (clocked s) ha), by rw [hcl, holdOam_alignOwed, clocked_cl]⟩

theorem Phase.isPaused_held (p : Phase) : p.held.isPaused = p.isHalfCycle := by cases p <;> rfl

theorem Phase.resumed_of_not_paused {p : Phase} (h : p.isPaused = false) : p.resumed = p := by
  cases p <;> simp_all [Phase.isPaused, Phase.resumed]

theorem resumeOam_oam (s : State) : (resumeOam s).oam = { s.oam with phase := s.oam.phase.resumed } ∧
    (resumeOam s).cl.alignOwed = (s.oam.phase.isPaused || s.cl.alignOwed) := by
  obtain ⟨hp, he⟩ | ⟨hp, he⟩ | ⟨hp, he⟩ := resumeOam_cases s
  · rw [he, hp]
    exact ⟨rfl, rfl⟩
  · rw [he, hp]
    exact ⟨rfl, rfl⟩
  · rw [he, hp, Phase.resumed_of_not_paused hp]
    exact ⟨rfl, (Bool.false_or _).symm⟩

/-- The fetch cycle resumes an engine, and an alignment is owed after it if one was or the engine is in a
half-cycle. -/
theorem tick_fetch_oam {s : State} (hr : s.dmc.rdyLow = true) (h1 : s.dmc.stallCyclesRemaining.val ≤ 1)
    (ha : s.oam.active = true ∨ s.oam.phase = .idle) :
    (tick s).oam = { s.oam with phase := s.oam.phase.held.resumed } ∧
      (tick s).cl.alignOwed = (s.oam.phase.isHalfCycle || s.cl.alignOwed) := by
  have hhold : (fetchCycle (holdOam (clocked s))).oam = { s.oam with phase := s.oam.phase.held } :=
    @holdOam_oam (clocked s) ha
  have howed : (fetchCycle (holdOam (clocked s))).cl.alignOwed = s.cl.alignOwed :=
    holdOam_alignOwed (clocked s)
  obtain ⟨hoam, hcl⟩ := resumeOam_oam (fetchCycle (holdOam (clocked s)))
  rw [hhold] at hoam hcl
  rw [tick_of_fetch hr h1, hoam, hcl, howed, Phase.isPaused_held]
  exact ⟨rfl, rfl⟩

/-- No tick of a stall adds a bulk-copy access. -/
theorem Stalling.bulkAccesses_ticks {n k : Nat} {s : State} (h : Stalling n s) (hk : k ≤ n) :
    bulkAccesses (Machine.ticks k s).env.busLog = bulkAccesses s.env.busLog := by
  induction k with
  | zero => rfl
  | succ k ih =>
    rw [ticks_succ_eq_tick, bulkAccesses_tick_of_rdyLow (h.ticks k (by omega)).1, ih (by omega)]

/-- While a stall counts down, an active engine is held. -/
theorem Stalling.ticks_oam {n : Nat} {s : State} (h : Stalling n s) (k : Nat) (hk : k < n)
    (ha : s.oam.active = true) :
    (Machine.ticks k s).oam.active = true ∧
    { (Machine.ticks k s).oam with phase := s.oam.phase.held } = { s.oam with phase := s.oam.phase.held } ∧
    (Machine.ticks k s).oam.phase.held = s.oam.phase.held ∧
    (Machine.ticks k s).cl.alignOwed = s.cl.alignOwed := by
  induction k with
  | zero => exact ⟨ha, rfl, rfl, rfl⟩
  | succ k ih =>
    obtain ⟨hact, hrest, hphase, howed⟩ := ih (by omega)
    have hstall : Stalling (n - k - 1 + 1) (Machine.ticks k s) := by
      rw [show n - k - 1 + 1 = n - k by omega]
      exact h.ticks k (by omega)
    obtain ⟨hoam, hcl⟩ := hstall.tick_oam (by omega) (.inl hact)
    rw [ticks_succ_eq_tick, hoam, hcl, hphase]
    exact ⟨hact, hrest, Phase.held_held _, howed⟩

/-- A whole stall leaves an active engine resumed and otherwise as it was, with an alignment owed if one was or
the engine is in a half-cycle. -/
theorem Stalling.four_ticks_oam {s : State} (h : Stalling 4 s) (ha : s.oam.active = true) :
    (Machine.ticks 4 s).oam = { s.oam with phase := s.oam.phase.held.resumed } ∧
    (Machine.ticks 4 s).cl.alignOwed = (s.oam.phase.isHalfCycle || s.cl.alignOwed) := by
  obtain ⟨hr, hc⟩ := h.ticks 3 (by decide)
  obtain ⟨hact, hrest, hphase, howed⟩ := h.ticks_oam 3 (by decide) ha
  obtain ⟨hoam, hcl⟩ := tick_fetch_oam hr hc.le (.inl hact)
  have hhalf : (Machine.ticks 3 s).oam.phase.isHalfCycle = s.oam.phase.isHalfCycle := by
    rw [← Phase.isHalfCycle_held, hphase, Phase.isHalfCycle_held]
  rw [ticks_succ_eq_tick, hoam, hcl, hphase, hhalf, howed]
  exact ⟨congrArg (fun o : Oam => { o with phase := s.oam.phase.held.resumed }) hrest, rfl⟩

/-! A preemption of a transfer in progress (R133, R134). -/

/-- A trigger and its four ticks leave an engine that is not paused as it was. -/
theorem preemption_four_ticks (addr : Addr) {s : State} (ha : s.oam.active = true)
    (hp : s.oam.phase.isPaused = false) :
    (ticks 4 (startFetch addr (withdrawResponse s))).oam = s.oam ∧
    (ticks 4 (startFetch addr (withdrawResponse s))).cl.alignOwed = (s.oam.phase.isHalfCycle || s.cl.alignOwed) ∧
    (ticks 4 (startFetch addr (withdrawResponse s))).dmc.rdyLow = false ∧
    bulkAccesses (ticks 4 (startFetch addr (withdrawResponse s))).env.busLog = bulkAccesses s.env.busLog := by
  have hstall := stalling_startFetch addr (withdrawResponse s)
  obtain ⟨hoam, howed⟩ := hstall.four_ticks_oam ha
  have hresumed : s.oam.phase.held.resumed = s.oam.phase := by
    cases hq : s.oam.phase <;> simp_all [Phase.held, Phase.resumed, Phase.isPaused]
  refine ⟨hoam.trans (Oam.with_phase_self hresumed.symm), howed, hstall.fetch.1,
    hstall.bulkAccesses_ticks (by decide)⟩

/-- A fifth tick pays the owed alignment. -/
theorem preemption_five_ticks (addr : Addr) {s : State} (ha : s.oam.active = true)
    (hp : s.oam.phase.isPaused = false) (howed : (s.oam.phase.isHalfCycle || s.cl.alignOwed) = true) :
    (ticks 5 (startFetch addr (withdrawResponse s))).oam = s.oam ∧
    (ticks 5 (startFetch addr (withdrawResponse s))).cl.alignOwed = false ∧
    (ticks 5 (startFetch addr (withdrawResponse s))).dmc.rdyLow = false ∧
    bulkAccesses (ticks 5 (startFetch addr (withdrawResponse s))).env.busLog = bulkAccesses s.env.busLog := by
  obtain ⟨hoam, hcl, hr, hlog⟩ := preemption_four_ticks addr ha hp
  rw [ticks_succ_eq_tick, tick_of_owed hr (by rw [hoam, ha]) (hcl.trans howed)]
  exact ⟨hoam, rfl, hr, hlog⟩

theorem Phase.isPaused_of_running {p : Phase} (h : p = .reading ∨ p = .writing) :
    p.isPaused = false ∧ p.isHalfCycle = true := by
  obtain rfl | rfl := h <;> exact ⟨rfl, rfl⟩

/-- Settles O42: four ticks for the stall, and a fifth where an alignment is owed after it. -/
theorem preemptionCost : Obligations.PreemptionCost := by
  intro addr s hr ha
  refine ⟨_, runOps_cons_ticks (.dmcTrig addr) s rfl, fun ho hp => ?_, fun ho hp => ?_, fun ho hp => ?_⟩
  · obtain ⟨hpaused, hhalf⟩ := Phase.isPaused_of_running hp
    obtain ⟨hoam, hcl, -, -⟩ := preemption_four_ticks addr ha hpaused
    obtain ⟨hoam5, hcl5, hr5, hlog5⟩ := preemption_five_ticks addr ha hpaused (by rw [hhalf]; rfl)
    exact ⟨by rw [perform, hcl, hhalf]; rfl, hoam, hoam5, hcl5, hr5, hlog5⟩
  · have hpaused : s.oam.phase.isPaused = false ∧ s.oam.phase.isHalfCycle = false := by
      obtain hp | hp := hp <;> rw [hp] <;> exact ⟨rfl, rfl⟩
    obtain ⟨hoam, hcl, hr4, -⟩ := preemption_four_ticks addr ha hpaused.1
    exact ⟨hoam, by rw [perform, hcl, hpaused.2, ho]; rfl, hr4⟩
  · obtain ⟨hpaused, hhalf⟩ := Phase.isPaused_of_running hp
    obtain ⟨hoam, hcl, hr4, -⟩ := preemption_four_ticks addr ha hpaused
    obtain ⟨hoam5, hcl5, -, -⟩ := preemption_five_ticks addr ha hpaused (by rw [hhalf]; rfl)
    exact ⟨hoam, by rw [perform, hcl, hhalf]; rfl, hr4, hoam5, hcl5⟩

/-! Sample fetches every five ticks (R213). -/

/-- The transfer `s` has made, held up where it is. -/
def Starved (s u : State) : Prop :=
  u.dmc.rdyLow = false ∧ u.oam = s.oam ∧ u.cl.alignOwed = false ∧
    bulkAccesses u.env.busLog = bulkAccesses s.env.busLog

theorem starved_round (addr : Addr) {s u : State} (ha : s.oam.active = true)
    (hp : s.oam.phase = .reading ∨ s.oam.phase = .writing) (h : Starved s u) :
    Starved s (performAll (Instr.dmcTrig addr :: List.replicate 5 Instr.tick) u) := by
  obtain ⟨-, hoam, -, hlog⟩ := h
  obtain ⟨hpaused, hhalf⟩ := Phase.isPaused_of_running hp
  obtain ⟨hoam5, hcl5, hr5, hlog5⟩ := @preemption_five_ticks addr u (by rw [hoam, ha])
    (by rw [hoam, hpaused]) (by rw [hoam, hhalf]; rfl)
  rw [← eq_performAll_of_runOps (runOps_cons_ticks (.dmcTrig addr) u rfl 5)]
  exact ⟨hr5, hoam5.trans hoam, hcl5, hlog5.trans hlog⟩

/-- Settles O43, by induction on the rounds. -/
theorem frequentFetchesStarveTransfer : Obligations.FrequentFetchesStarveTransfer := by
  intro addr s rounds hr ha ho hp
  have key (n : Nat) (u : State) (hu : Starved s u) :
      Starved s (performAll (List.replicate n (Instr.dmcTrig addr :: List.replicate 5 Instr.tick)).flatten u) := by
    induction n generalizing u with
    | zero => exact hu
    | succ n ih =>
      rw [List.replicate_succ, List.flatten_cons, performAll_append]
      exact ih _ (starved_round addr ha hp hu)
  obtain ⟨-, hoam, -, hlog⟩ := key rounds s ⟨hr, rfl, ho, rfl⟩
  exact ⟨_, runOps_eq_next _ _, hoam, halt_of_active (by rw [hoam, ha]), hlog⟩

end Sys2Proof.Machine
end

section
/-! PROOFS. `halt` falls (70_reset_and_hazards.md R216): the ticks left until it does, which every tick uses up
and no operation that triggers nothing adds to. -/

namespace Sys2Proof.Machine

/-- Ticks left to a stall in progress. -/
def stallLeft (s : State) : Nat := if s.dmc.rdyLow then s.dmc.stallCyclesRemaining.val else 0

/-- Ticks left to a transfer for its own steps: the startup wait, the half-cycles, the completion cycle. -/
def Oam.ticksLeft (o : Oam) : Nat :=
  match o.phase with
  | .idle => 0
  | .aligning => 514
  | .reading | .writing | .pausedDuringRead | .pausedDuringWrite | .completing => 513 - o.currentCycle.toNat

/-- The alignment cycle that is owed, or will be when the stall in progress ends. -/
def alignLeft (s : State) : Nat :=
  if s.oam.phase.isHalfCycle && (s.cl.alignOwed || s.dmc.rdyLow) then 1 else 0

/-- Ticks left until `halt` falls, if nothing is triggered. -/
def ticksLeft (s : State) : Nat := stallLeft s + s.oam.ticksLeft + alignLeft s

theorem ticksLeft_le_bound (s : State) : ticksLeft s ≤ 518 := by
  have hstall : stallLeft s ≤ 4 := by
    unfold stallLeft
    split <;> omega
  have halign : alignLeft s ≤ 1 := by
    unfold alignLeft
    split <;> omega
  have hcopy : s.oam.ticksLeft + alignLeft s ≤ 514 := by
    cases hp : s.oam.phase with
    | aligning => simp [Oam.ticksLeft, alignLeft, hp, Phase.isHalfCycle]
    | _ => simp only [Oam.ticksLeft, hp]; omega
  unfold ticksLeft
  omega

/-- Nothing left means that both engines are idle. -/
theorem halt_of_ticksLeft_eq_zero {s : State} (h : Inv s) (hz : ticksLeft s = 0) : halt s = false := by
  have hr : s.dmc.rdyLow = false := by
    refine Bool.eq_false_iff.mpr fun hr => ?_
    have := h.stall_pos hr
    simp only [ticksLeft, stallLeft, hr, if_true] at hz
    omega
  have hidle : s.oam.phase = .idle := by
    cases hp : s.oam.phase with
    | idle => rfl
    | aligning => simp [ticksLeft, Oam.ticksLeft, hp] at hz
    | reading | writing | pausedDuringRead | pausedDuringWrite | completing =>
      have hle := h.wf.cycle_le
      simp only [ticksLeft, Oam.ticksLeft, hp] at hz
      omega
  exact (halt_eq_false_iff s).mpr ⟨hr, h.inactive_of_idle hidle⟩

theorem Oam.ticksLeft_held (o : Oam) : { o with phase := o.phase.held }.ticksLeft = o.ticksLeft := by
  unfold Oam.ticksLeft
  cases o.phase <;> rfl

theorem Phase.isHalfCycle_resumed (p : Phase) : p.resumed.isHalfCycle = p.isHalfCycle := by cases p <;> rfl

theorem Oam.ticksLeft_resumed (o : Oam) : { o with phase := o.phase.held.resumed }.ticksLeft = o.ticksLeft := by
  unfold Oam.ticksLeft
  cases o.phase <;> rfl

theorem Inv.active_or_idle {s : State} (h : Inv s) : s.oam.active = true ∨ s.oam.phase = .idle := by
  by_cases hp : s.oam.phase = .idle
  · exact .inr hp
  · exact .inl (h.active_of_phase hp)

/-- A tick of a stall uses one of its cycles up; what it leaves owed was counted before. -/
theorem Inv.ticksLeft_tick_stall {s : State} (h : Inv s) (hr : s.dmc.rdyLow = true) :
    ticksLeft (tick s) + 1 = ticksLeft s := by
  have hpos := h.stall_pos hr
  by_cases h1 : s.dmc.stallCyclesRemaining.val ≤ 1
  · obtain ⟨hdmc, -⟩ := tick_fetch hr h1
    obtain ⟨hoam, howed⟩ := tick_fetch_oam hr h1 h.active_or_idle
    simp only [ticksLeft, stallLeft, alignLeft, hdmc, hoam, howed, hr, Oam.ticksLeft_resumed,
      Phase.isHalfCycle_resumed, Phase.isHalfCycle_held]
    cases s.oam.phase.isHalfCycle <;> simp <;> omega
  · obtain ⟨hdmc, -⟩ := tick_stalling hr (by omega)
    obtain ⟨hoam, howed⟩ := @Stalling.tick_oam (s.dmc.stallCyclesRemaining.val - 1) s
      ⟨hr, by omega⟩ (by omega) h.active_or_idle
    have hpred := stallPred_val_succ hpos
    simp only [ticksLeft, stallLeft, alignLeft, hdmc, hoam, howed, hr, Oam.ticksLeft_held,
      Phase.isHalfCycle_held]
    simp only [if_true]
    omega

/-- A tick of a transfer uses up one of its own. -/
theorem Inv.ticksLeft_tick_copy {s : State} (h : Inv s) (hr : s.dmc.rdyLow = false) (ha : s.oam.active = true) :
    ticksLeft (tick s) + 1 = ticksLeft s := by
  have hk := tickKind s
  generalize tick s = t at hk ⊢
  cases hk with
  | unowned _ ha' => exact absurd (ha.symm.trans ha') (by decide)
  | owed _ _ ho =>
    obtain ⟨-, ⟨-, -, howed⟩, -⟩ := (inv_iff s).mp h
    simp [ticksLeft, stallLeft, alignLeft, resumeAlign, hr, ho, howed ho]
  | aligning _ _ ho hp =>
    obtain ⟨-, -, hc, -⟩ := h.wf.of_aligning hp
    simp [ticksLeft, stallLeft, alignLeft, startupAlign, hr, ho, hp, hc, Oam.ticksLeft, Phase.isHalfCycle]
  | reading _ _ ho hp =>
    obtain ⟨-, -, -, hle, -⟩ := h.wf.of_reading hp
    simp [ticksLeft, stallLeft, alignLeft, readHalf, hr, ho, hp, Oam.ticksLeft]
    omega
  | writing _ _ ho hp =>
    obtain ⟨-, -, -, hle, -⟩ := h.wf.of_writing hp
    have hleft : (writeHalf (clocked s)).oam.ticksLeft = 513 - (s.oam.currentCycle + 1#16).toNat := by
      by_cases hlast : s.oam.currentCycle + 1#16 = Config.transferHalfCycles <;>
        simp [writeHalf, Oam.ticksLeft, hlast]
    have hbefore : s.oam.ticksLeft = 513 - s.oam.currentCycle.toNat := by simp [Oam.ticksLeft, hp]
    have hnow : (s.oam.currentCycle + 1#16).toNat = s.oam.currentCycle.toNat + 1 := by
      simp
      omega
    rw [ticksLeft, ticksLeft, hleft, hbefore, hnow]
    simp [stallLeft, alignLeft, writeHalf, hr, ho]
    omega
  | completing _ _ ho hp =>
    obtain ⟨-, -, hc, -⟩ := h.wf.of_completing hp
    simp [ticksLeft, stallLeft, alignLeft, complete, hr, ho, hp, hc, Oam.ticksLeft, Oam.reset, Phase.isHalfCycle]
  | stuck _ _ _ hp =>
    obtain hp | hp := hp
    · exact absurd (ha.symm.trans (h.inactive_of_idle hp)) (by decide)
    · exact absurd (hr.symm.trans (h.rdyLow_of_paused hp)) (by decide)
  | fetch hr' | repeated hr' | counted hr' => exact absurd (hr.symm.trans hr') (by decide)

theorem Inv.ticksLeft_tick {s : State} (h : Inv s) : ticksLeft (tick s) ≤ ticksLeft s - 1 := by
  cases hr : s.dmc.rdyLow with
  | true =>
    have := h.ticksLeft_tick_stall hr
    omega
  | false =>
    cases ha : s.oam.active with
    | true =>
      have := h.ticksLeft_tick_copy hr ha
      omega
    | false =>
      have hp : s.oam.phase = .idle := h.active_or_idle.resolve_left (by simp [ha])
      rw [tick_of_idle hr ha]
      simp [ticksLeft, stallLeft, alignLeft, hr, hp, Oam.ticksLeft, Phase.isHalfCycle]

/-- An operation other than a tick that triggers nothing adds nothing: it leaves the engines as they are, or
resets them. -/
theorem ticksLeft_perform {i : Instr} (hi : triggersNothing i = true) (htick : i ≠ .tick) (s : State) :
    ticksLeft (perform i s) ≤ ticksLeft s := by
  cases i with
  | tick => exact absurd rfl htick
  | oamTrig | dmcTrig => cases hi
  | reset => exact Nat.zero_le _
  | cpuRd addr =>
    obtain ⟨-, he⟩ | ⟨-, he⟩ := reportRead_cases addr s
    · exact (congrArg ticksLeft he).le
    · exact (congrArg ticksLeft he).le
  | stRead | enWrite | winStart | winEnd => exact Nat.le_refl _

theorem ticksLeft_performAll {ops : List Instr} (hops : ops.all triggersNothing = true) {s : State} (h : Inv s) :
    Inv (performAll ops s) ∧ ticksLeft (performAll ops s) ≤ ticksLeft s - ops.count .tick := by
  induction ops generalizing s with
  | nil => exact ⟨h, Nat.le_refl _⟩
  | cons i is ih =>
    simp only [List.all_cons, Bool.and_eq_true] at hops
    have hw : Inv (withdrawResponse s) := h
    obtain ⟨hinv, hle⟩ := ih hops.2 (perform_inv i hw)
    refine ⟨hinv, hle.trans ?_⟩
    by_cases hi : i = .tick
    · subst hi
      have hdec : ticksLeft (perform .tick (withdrawResponse s)) ≤ ticksLeft s - 1 := hw.ticksLeft_tick
      rw [List.count_cons_self]
      omega
    · have hdec : ticksLeft (perform i (withdrawResponse s)) ≤ ticksLeft s := ticksLeft_perform hops.1 hi _
      rw [List.count_cons_of_ne hi]
      omega

/-- With nothing triggered, `halt` is low after 518 ticks and whatever else. -/
theorem Inv.halt_low {s : State} (h : Inv s) {ops : List Instr} (hops : ops.all triggersNothing = true)
    (hcount : 518 ≤ ops.count .tick) : halt (performAll ops s) = false := by
  obtain ⟨hinv, hle⟩ := ticksLeft_performAll hops h
  have := ticksLeft_le_bound s
  exact halt_of_ticksLeft_eq_zero hinv (by omega)

theorem all_replicate_tick (n : Nat) : (List.replicate n Instr.tick).all triggersNothing = true := by
  simp [List.all_replicate, triggersNothing]

theorem Inv.halt_low_ticks {s : State} (h : Inv s) {n : Nat} (hn : 518 ≤ n) :
    halt (performAll (List.replicate n .tick) s) = false :=
  h.halt_low (all_replicate_tick n) (by rwa [List.count_replicate_self])

/-- The command port has no part in `halt` after ticks. -/
theorem ticks_setPort (n : Nat) (s : State) (v : Port) : ticks n (s.setPort v) = (ticks n s).setPort v := by
  induction n generalizing s with
  | zero => rfl
  | succ n ih => rw [ticks_succ, tick_setPort, ih, ticks_succ]

theorem halt_performAll_replicate_tick (n : Nat) (s : State) :
    halt (performAll (List.replicate n .tick) s) = halt (ticks n s) := by
  cases n with
  | zero => rfl
  | succ n =>
    have hrun : performAll (List.replicate (n + 1) .tick) s = ticks (n + 1) (withdrawResponse s) :=
      performAll_replicate_tick (n + 1) (response_withdrawResponse s)
    rw [hrun, withdrawResponse, ticks_setPort]
    rfl

/-- `RUN_UNTIL_IDLE` ends with `halt` low: found low before the bound, or by the bound. -/
theorem Inv.halt_low_runUntilIdle {s : State} (h : Inv s) :
    halt (performAll (List.replicate (ticksToIdle stallBound s) .tick) s) = false := by
  by_cases hlt : ticksToIdle stallBound s < stallBound
  · rw [halt_performAll_replicate_tick]
    exact halt_ticksToIdle hlt
  · exact h.halt_low_ticks (Nat.le_of_not_lt hlt)

/-- Settles O47: every tick uses one of at most 518 up. -/
theorem haltFallsWithinBound : Obligations.HaltFallsWithinBound := by
  refine fun s h => ⟨fun ops t hops hcount ht => ?_,
    ⟨518, _, Nat.le_refl _, runOps_eq_next _ _, h.halt_low_ticks (Nat.le_refl _)⟩,
    ⟨_, ?_, h.halt_low_runUntilIdle⟩⟩
  · rw [eq_performAll_of_runOps ht]
    exact h.halt_low hops hcount
  · rw [runLines, expandLine_of_wellFormed _ rfl, lineOps]
    simp only [runOps_eq_next, runLines]

end Sys2Proof.Machine
end

section
/-! PROOFS. An uninterrupted transfer, byte by byte (40_bulk_copy_dma.md R88). -/

namespace Sys2Proof.Machine

/-- The transfer of `page` to `dest` on has copied `k` bytes and no stall is in progress. -/
structure AtByte (page dest : Byte) (k : Nat) (s : State) : Prop where
  rdyLow : s.dmc.rdyLow = false
  active : s.oam.active = true
  owed : s.cl.alignOwed = false
  sourcePage : s.oam.sourcePage = page
  offset : s.oam.currentOffset = BitVec.ofNat 8 k
  cycle : s.oam.currentCycle = BitVec.ofNat 16 (2 * k)
  phase : s.oam.phase = if k = 256 then .completing else .reading
  destPtr : s.env.destPtr = dest + BitVec.ofNat 8 k

theorem halt_of_atByte {page dest : Byte} {k : Nat} {s : State} (h : AtByte page dest k s) : halt s = true :=
  halt_of_active h.active

section NextByte
variable {page dest : Byte} {k : Nat} {s : State} (h : AtByte page dest k s) (hk : k < 256)
include h hk

theorem AtByte.tick_eq : tick s = readHalf (clocked s) :=
  tick_of_reading h.rdyLow h.active h.owed (by rw [h.phase, if_neg (by omega)])

theorem AtByte.tick_tick_eq : tick (tick s) = writeHalf (clocked (readHalf (clocked s))) := by
  rw [h.tick_eq hk]
  exact @tick_of_writing (readHalf (clocked s)) h.rdyLow h.active h.owed rfl

/-- The read of the byte. -/
theorem AtByte.log_read : (tick s).env.busLog = s.env.busLog ++
    [BusAccess.read .bulkCopy (s.now + 1#64) (page ++ BitVec.ofNat 8 k) (tick s).oam.tempValue] := by
  rw [h.tick_eq hk, ← h.sourcePage, ← h.offset]
  rfl

/-- The write of the byte read. -/
theorem AtByte.log_write : (tick (tick s)).env.busLog = (tick s).env.busLog ++
    [BusAccess.write (s.now + 2#64) (dest + BitVec.ofNat 8 k) (tick s).oam.tempValue] := by
  have hnow : s.now + 1#64 + 1#64 = s.now + 2#64 := by rw [BitVec.add_assoc]; rfl
  rw [h.tick_tick_eq hk, h.tick_eq hk, ← hnow, ← h.destPtr]
  rfl

/-- Two ticks lead to the next byte, or to the completion cycle. -/
theorem AtByte.next : AtByte page dest (k + 1) (tick (tick s)) := by
  have hcycle : s.oam.currentCycle + 1#16 + 1#16 = BitVec.ofNat 16 (2 * (k + 1)) := by
    rw [h.cycle, BitVec.add_assoc, Nat.mul_succ, BitVec.ofNat_add]
    rfl
  have hlast : (BitVec.ofNat 16 (2 * (k + 1)) = Config.transferHalfCycles) ↔ k + 1 = 256 := by
    rw [← BitVec.toNat_inj]
    simp [Config.transferHalfCycles]
    omega
  rw [h.tick_tick_eq hk]
  exact {
    rdyLow := h.rdyLow
    active := h.active
    owed := h.owed
    sourcePage := h.sourcePage
    offset := by rw [BitVec.ofNat_add, ← h.offset]; rfl
    cycle := hcycle
    phase := by
      simp only [writeHalf, readHalf, State.setOam_oam, clocked_oam, hcycle, hlast]
    destPtr := by rw [BitVec.ofNat_add, ← BitVec.add_assoc, ← h.destPtr]; rfl }

end NextByte

theorem AtByte.ticks {page dest : Byte} {s : State} (h : AtByte page dest 0 s) {k : Nat} (hk : k ≤ 256) :
    AtByte page dest k (Machine.ticks (2 * k) s) := by
  induction k with
  | zero => exact h
  | succ k ih =>
    rw [Nat.mul_succ, ticks_add]
    exact (ih (by omega)).next (by omega)

/-- The completion cycle touches no bus and ends the transfer. -/
theorem AtByte.completes {page dest : Byte} {s : State} (h : AtByte page dest 256 s) :
    (tick s).oam.active = false ∧ halt (tick s) = false ∧ (tick s).env = s.env := by
  have he : tick s = complete (clocked s) :=
    tick_of_completing h.rdyLow h.active h.owed (by rw [h.phase, if_pos rfl])
  rw [he, halt_eq_false_iff]
  exact ⟨rfl, ⟨h.rdyLow, rfl⟩, rfl⟩

/-- After the startup wait, if there is one, the transfer stands at its first byte and no bus was touched. -/
theorem atByte_zero (page : Byte) (odd : Bool) {s : State} (hr : s.dmc.rdyLow = false) :
    AtByte page s.env.destPtr 0 (ticks odd.toNat (startCopy page odd s)) ∧
    (ticks odd.toNat (startCopy page odd s)).env = s.env := by
  cases odd with
  | false => exact ⟨⟨hr, rfl, rfl, rfl, rfl, rfl, rfl, (BitVec.add_zero _).symm⟩, rfl⟩
  | true =>
    have he : tick (startCopy page true s) = startupAlign (clocked (startCopy page true s)) :=
      @tick_of_aligning (startCopy page true s) hr rfl rfl rfl
    rw [Bool.toNat_true, ticks_succ, ticks_zero, he]
    exact ⟨⟨hr, rfl, rfl, rfl, rfl, rfl, rfl, (BitVec.add_zero _).symm⟩, rfl⟩

section WholeTransfer
variable (page : Byte) (odd : Bool) {s : State} (hr : s.dmc.rdyLow = false)
include hr

/-- Where the transfer stands every two ticks. -/
theorem atByte_ticks_startCopy (i : Nat) (hi : i ≤ 256) :
    AtByte page s.env.destPtr i (ticks (odd.toNat + 2 * i) (startCopy page odd s)) := by
  rw [ticks_add]
  exact (atByte_zero page odd hr).1.ticks hi

/-- The engine is active through the startup wait, the half-cycles and up to the completion cycle. -/
theorem active_ticks_startCopy {k : Nat} (hk : k < 513 + odd.toNat) :
    (ticks k (startCopy page odd s)).oam.active = true := by
  by_cases hwait : k < odd.toNat
  · have hk0 : k = 0 := by cases odd <;> simp at hwait; exact hwait
    subst hk0
    rfl
  · obtain ⟨j, rfl⟩ := Nat.exists_eq_add_of_le (Nat.le_of_not_lt hwait)
    obtain ⟨i, rfl | rfl⟩ := Nat.even_or_odd' j
    · exact (atByte_ticks_startCopy page odd hr i (by omega)).active
    · have hbyte := atByte_ticks_startCopy page odd hr i (by omega)
      rw [← Nat.add_assoc, ticks_succ_eq_tick, hbyte.tick_eq (by omega)]
      exact hbyte.active

/-- The accesses of byte `i`. -/
theorem log_ticks_startCopy {i : Nat} (hi : i < 256) : ∃ v : Byte,
    (ticks (odd.toNat + 2 * i + 1) (startCopy page odd s)).env.busLog =
      (ticks (odd.toNat + 2 * i) (startCopy page odd s)).env.busLog ++
        [BusAccess.read .bulkCopy (s.now + BitVec.ofNat 64 (odd.toNat + 2 * i + 1))
          (page ++ BitVec.ofNat 8 i) v] ∧
    (ticks (odd.toNat + 2 * i + 2) (startCopy page odd s)).env.busLog =
      (ticks (odd.toNat + 2 * i + 1) (startCopy page odd s)).env.busLog ++
        [BusAccess.write (s.now + BitVec.ofNat 64 (odd.toNat + 2 * i + 2))
          (s.env.destPtr + BitVec.ofNat 8 i) v] := by
  have hbyte := atByte_ticks_startCopy page odd hr i (by omega)
  have hread := hbyte.log_read hi
  have hwrite := hbyte.log_write hi
  rw [ticks_now, BitVec.add_assoc, ← BitVec.ofNat_add, ← ticks_succ_eq_tick] at hread hwrite
  rw [← ticks_succ_eq_tick] at hwrite
  exact ⟨_, hread, hwrite⟩

end WholeTransfer

/-- Settles O44: byte `i` is read and written in the two ticks after `odd + 2 i`, and the completion cycle is the
last. -/
theorem uninterruptedTransferTiming : Obligations.UninterruptedTransferTiming := by
  intro page odd s hr
  have hr' : (withdrawResponse s).dmc.rdyLow = false := hr
  have hend := (atByte_ticks_startCopy page odd hr' 256 (Nat.le_refl 256)).completes
  rw [← ticks_succ_eq_tick, show odd.toNat + 2 * 256 + 1 = 513 + odd.toNat by omega,
    show odd.toNat + 2 * 256 = 512 + odd.toNat by omega] at hend
  obtain ⟨hinactive, hlow, henv⟩ := hend
  refine ⟨_, runOps_cons_ticks (.oamTrig page odd) s rfl, fun k hk => ?_, hinactive, hlow,
    fun i hi => log_ticks_startCopy page odd hr' hi, ?_, congrArg Env.busLog henv⟩
  · have hactive := active_ticks_startCopy page odd hr' hk
    exact ⟨hactive, halt_of_active hactive⟩
  · obtain ⟨-, henv0⟩ := atByte_zero page odd hr'
    exact congrArg Env.busLog henv0

end Sys2Proof.Machine
end

section
/-! PROOFS. A transfer under any interleaving (42_arbitration_tick.md R131, 40_bulk_copy_dma.md R90): what one
operation can do to it, the bytes copied so far as an invariant, and where they land. -/

namespace Sys2Proof.Machine

/-- The second record stands where the first does in its transfer: they differ at most in the startup wait and the
phase. -/
structure Oam.SameProgress (o o' : Oam) : Prop where
  active : o'.active = o.active
  sourcePage : o'.sourcePage = o.sourcePage
  currentOffset : o'.currentOffset = o.currentOffset
  currentCycle : o'.currentCycle = o.currentCycle
  tempValue : o'.tempValue = o.tempValue

theorem Oam.SameProgress.of_eq {o o' : Oam} (h : o' = o) : o.SameProgress o' := by
  subst h
  exact ⟨rfl, rfl, rfl, rfl, rfl⟩

/-- What an operation that neither starts nor abandons a transfer can do to it. -/
inductive BulkMove (s : State) : State → Prop
  /-- the transfer stands where it stood, and no bulk-copy access is made -/
  | quiet {t : State} (log : List BusAccess) (oam : s.oam.SameProgress t.oam)
      (env : t.env = { s.env with busLog := s.env.busLog ++ log }) (silent : copyActions log = []) : BulkMove s t
  | read (active : s.oam.active = true) (at_read : s.oam.AtRead) : BulkMove s (readHalf (clocked s))
  | write (active : s.oam.active = true) (at_write : s.oam.AtWrite) : BulkMove s (writeHalf (clocked s))
  | complete (active : s.oam.active = true) (last : s.oam.currentCycle = 512) : BulkMove s (complete (clocked s))

theorem BulkMove.quiet_of_env_eq {s t : State} (oam : s.oam.SameProgress t.oam) (env : t.env = s.env) :
    BulkMove s t :=
  .quiet [] oam (by rw [env, List.append_nil]) rfl

/-- A tick of the sample-fetch engine is quiet. -/
theorem bulkMove_tick_of_rdyLow {s : State} (hr : s.dmc.rdyLow = true) : BulkMove s (tick s) := by
  have hoam : s.oam.SameProgress (tick s).oam := by
    obtain ⟨-, -, -, -, -, -, -, h⟩ := dmcTick_frame (clocked s)
    rw [tick_of_rdyLow hr, h]
    exact ⟨rfl, rfl, rfl, rfl, rfl⟩
  obtain ⟨-, henv⟩ | ⟨-, -, henv⟩ | henv := tick_env_of_rdyLow hr
  · exact .quiet _ hoam henv rfl
  · exact .quiet _ hoam henv rfl
  · exact .quiet_of_env_eq hoam henv

theorem bulkMove_tick {s : State} (hwf : s.oam.Wf) : BulkMove s (tick s) := by
  cases hr : s.dmc.rdyLow with
  | true => exact bulkMove_tick_of_rdyLow hr
  | false =>
    have hk := tickKind s
    generalize tick s = t at hk ⊢
    cases hk with
    | unowned | owed | aligning | stuck => exact .quiet_of_env_eq ⟨rfl, rfl, rfl, rfl, rfl⟩ rfl
    | reading _ ha _ hp =>
      obtain ⟨-, -, hat⟩ := hwf.of_reading hp
      exact .read ha hat
    | writing _ ha _ hp =>
      obtain ⟨-, -, hat⟩ := hwf.of_writing hp
      exact .write ha hat
    | completing _ ha _ hp =>
      obtain ⟨-, -, hlast, -⟩ := hwf.of_completing hp
      exact .complete ha hlast
    | fetch hr' | repeated hr' | counted hr' => exact absurd (hr.symm.trans hr') (by decide)

theorem bulkMove_perform {i : Instr} (hi : keepsTransfer i = true) {s : State} (hwf : s.oam.Wf) :
    BulkMove s (perform i s) := by
  cases i with
  | tick => exact bulkMove_tick hwf
  | oamTrig | reset => cases hi
  | cpuRd addr => exact .quiet_of_env_eq (.of_eq (reportRead_oam addr s)) (reportRead_env addr s)
  | dmcTrig | stRead | enWrite | winStart | winEnd => exact .quiet_of_env_eq (.of_eq rfl) rfl

/-! The bytes copied so far. -/

theorem copyActions_append (l l' : List BusAccess) : copyActions (l ++ l') = copyActions l ++ copyActions l' := by
  induction l with
  | nil => rfl
  | cons a l ih =>
    match a with
    | .read .bulkCopy _ _ _ | .write _ _ _ => simp [copyActions, ih]
    | .read .sampleFetch _ _ _ | .read .repeatRead _ _ _ => exact ih

/-- One byte more. -/
theorem copySequence_concat (page offset dest : Byte) (bs : List Byte) (b : Byte) :
    copySequence page offset dest (bs ++ [b]) = copySequence page offset dest bs ++
      [CopyAction.readsFrom (page ++ (offset + BitVec.ofNat 8 bs.length)) b,
        CopyAction.writesTo (dest + BitVec.ofNat 8 bs.length) b] := by
  induction bs generalizing offset dest with
  | nil => simp [copySequence]
  | cons c bs ih =>
    have hshift (x : Byte) : x + 1#8 + BitVec.ofNat 8 bs.length = x + BitVec.ofNat 8 (bs.length + 1) := by
      rw [BitVec.add_assoc, Nat.add_comm, BitVec.ofNat_add]
    rw [List.cons_append, copySequence, ih, hshift, hshift]
    rfl

/-- How many bytes have been written. -/
def Oam.bytesDone (o : Oam) : Nat := if o.active then o.currentCycle.toNat / 2 else 256

/-- The read whose write is still to come. -/
def Oam.pendingRead (o : Oam) : List CopyAction :=
  if o.active = true ∧ o.currentCycle.toNat % 2 = 1
  then [CopyAction.readsFrom (o.sourcePage ++ o.currentOffset) o.tempValue] else []

/-- The transfer of `page` to `dest` on has copied these bytes, by these actions. -/
structure Copied (page dest : Byte) (bytes : List Byte) (actions : List CopyAction) (s : State) : Prop where
  page_eq : s.oam.active = true → s.oam.sourcePage = page
  length_eq : bytes.length = s.oam.bytesDone
  destPtr_eq : s.env.destPtr = dest + BitVec.ofNat 8 bytes.length
  actions_eq : actions = copySequence page 0 dest bytes ++ s.oam.pendingRead

theorem copied_startCopy (page : Byte) (odd : Bool) (s : State) :
    Copied page s.env.destPtr [] [] (startCopy page odd s) :=
  ⟨fun _ => rfl, by simp [Oam.bytesDone, startCopy, freshTransfer], (BitVec.add_zero _).symm, rfl⟩

/-- Between its read and its write, and before its read, a byte's number is the offset. -/
theorem Oam.AtRead.offset_eq {o : Oam} (h : o.AtRead) :
    o.currentOffset = BitVec.ofNat 8 (o.currentCycle.toNat / 2) := by
  obtain ⟨-, hle, hoff⟩ := h
  apply BitVec.eq_of_toNat_eq
  rw [hoff, BitVec.toNat_ofNat]
  omega

theorem Oam.AtWrite.offset_eq {o : Oam} (h : o.AtWrite) :
    o.currentOffset = BitVec.ofNat 8 (o.currentCycle.toNat / 2) := by
  obtain ⟨hodd, hle, hoff⟩ := h
  apply BitVec.eq_of_toNat_eq
  rw [hoff, BitVec.toNat_ofNat]
  omega

theorem Oam.pendingRead_of_even {o : Oam} (h : o.currentCycle.toNat % 2 = 0) : o.pendingRead = [] :=
  if_neg (by omega)

theorem Oam.pendingRead_of_odd {o : Oam} (ha : o.active = true) (h : o.currentCycle.toNat % 2 = 1) :
    o.pendingRead = [CopyAction.readsFrom (o.sourcePage ++ o.currentOffset) o.tempValue] := if_pos ⟨ha, h⟩

theorem Oam.pendingRead_of_active {o : Oam} (ha : o.active = true) : o.pendingRead =
    if o.currentCycle.toNat % 2 = 1
    then [CopyAction.readsFrom (o.sourcePage ++ o.currentOffset) o.tempValue] else [] :=
  if_congr (and_iff_right ha) rfl rfl

theorem Oam.bytesDone_of_active {o : Oam} (ha : o.active = true) : o.bytesDone = o.currentCycle.toNat / 2 :=
  if_pos ha

theorem Oam.SameProgress.bytesDone_eq {o o' : Oam} (h : o.SameProgress o') : o'.bytesDone = o.bytesDone := by
  simp only [Oam.bytesDone, h.active, h.currentCycle]

theorem Oam.SameProgress.pendingRead_eq {o o' : Oam} (h : o.SameProgress o') : o'.pendingRead = o.pendingRead := by
  simp only [Oam.pendingRead, h.active, h.currentCycle, h.sourcePage, h.currentOffset, h.tempValue]

theorem toNat_cycle_succ (c : BitVec 16) (h : c.toNat ≤ 511) : (c + 1#16).toNat = c.toNat + 1 := by
  simp
  omega

/-- A read half-cycle completes no byte. -/
theorem bytesDone_readHalf {s : State} (ha : s.oam.active = true) (hat : s.oam.AtRead) :
    (readHalf (clocked s)).oam.bytesDone = s.oam.bytesDone := by
  obtain ⟨heven, hle, -⟩ := hat
  have hdone : (readHalf (clocked s)).oam.bytesDone = (s.oam.currentCycle + 1#16).toNat / 2 := if_pos ha
  rw [hdone, Oam.bytesDone_of_active ha, toNat_cycle_succ _ (by omega)]
  omega

/-- A write half-cycle completes one. -/
theorem bytesDone_writeHalf {s : State} (ha : s.oam.active = true) (hat : s.oam.AtWrite) :
    (writeHalf (clocked s)).oam.bytesDone = s.oam.bytesDone + 1 := by
  obtain ⟨hodd, hle, -⟩ := hat
  have hdone : (writeHalf (clocked s)).oam.bytesDone = (s.oam.currentCycle + 1#16).toNat / 2 := if_pos ha
  rw [hdone, Oam.bytesDone_of_active ha, toNat_cycle_succ _ hle]
  omega

section Moves
variable {page dest : Byte} {bytes : List Byte} {actions : List CopyAction} {s : State}
  (h : Copied page dest bytes actions s)
include h

theorem Copied.withdraw : Copied page dest bytes actions (withdrawResponse s) :=
  ⟨h.page_eq, h.length_eq, h.destPtr_eq, h.actions_eq⟩

theorem Copied.quiet {t : State} {log : List BusAccess} (oam : s.oam.SameProgress t.oam)
    (env : t.env = { s.env with busLog := s.env.busLog ++ log }) : Copied page dest bytes actions t where
  page_eq ha := oam.sourcePage.trans (h.page_eq (oam.active.symm.trans ha))
  length_eq := h.length_eq.trans oam.bytesDone_eq.symm
  destPtr_eq := by rw [env, ← h.destPtr_eq]
  actions_eq := by rw [oam.pendingRead_eq, h.actions_eq]

/-- A read half-cycle leaves its read pending. -/
theorem Copied.read (ha : s.oam.active = true) (hat : s.oam.AtRead) :
    Copied page dest bytes
      (actions ++ [CopyAction.readsFrom (oamSourceAddr s) (mainByte s.env (oamSourceAddr s))])
      (readHalf (clocked s)) := by
  have hdone := bytesDone_readHalf ha hat
  obtain ⟨heven, hle, -⟩ := hat
  have hsucc := toNat_cycle_succ s.oam.currentCycle (by omega)
  have hcycle : (readHalf (clocked s)).oam.currentCycle = s.oam.currentCycle + 1#16 := rfl
  have hpending : (readHalf (clocked s)).oam.pendingRead =
      [CopyAction.readsFrom (oamSourceAddr s) (mainByte s.env (oamSourceAddr s))] :=
    Oam.pendingRead_of_odd ha (by rw [hcycle]; omega)
  refine ⟨fun _ => h.page_eq ha, h.length_eq.trans hdone.symm, h.destPtr_eq, ?_⟩
  rw [h.actions_eq, Oam.pendingRead_of_even heven, List.append_nil, hpending]

/-- A write half-cycle completes a byte. -/
theorem Copied.write (ha : s.oam.active = true) (hat : s.oam.AtWrite) :
    Copied page dest (bytes ++ [s.oam.tempValue])
      (actions ++ [CopyAction.writesTo s.env.destPtr s.oam.tempValue]) (writeHalf (clocked s)) := by
  have hdone := bytesDone_writeHalf ha hat
  have hoff := hat.offset_eq
  obtain ⟨hodd, hle, -⟩ := hat
  have hsucc := toNat_cycle_succ _ hle
  have hcycle : (writeHalf (clocked s)).oam.currentCycle = s.oam.currentCycle + 1#16 := rfl
  have hpending : (writeHalf (clocked s)).oam.pendingRead = [] :=
    Oam.pendingRead_of_even (by rw [hcycle]; omega)
  have hlen : bytes.length = s.oam.currentCycle.toNat / 2 := h.length_eq.trans (Oam.bytesDone_of_active ha)
  refine ⟨fun _ => h.page_eq ha, ?_, ?_, ?_⟩
  · rw [List.length_append, List.length_singleton, hdone, h.length_eq]
  · rw [List.length_append, List.length_singleton, BitVec.ofNat_add, ← BitVec.add_assoc, ← h.destPtr_eq]
    rfl
  · rw [h.actions_eq, Oam.pendingRead_of_odd ha hodd, hpending, copySequence_concat, ← h.destPtr_eq, zero_add, hlen, ← hoff,
      h.page_eq ha, List.append_nil, List.append_assoc]
    rfl

/-- The completion cycle ends a copy of 256 bytes. -/
theorem Copied.complete (ha : s.oam.active = true) (hlast : s.oam.currentCycle = 512) :
    Copied page dest bytes actions (complete (clocked s)) := by
  refine ⟨fun hf => absurd hf Bool.false_ne_true, ?_, h.destPtr_eq, ?_⟩
  · rw [h.length_eq, Oam.bytesDone_of_active ha, hlast]
    rfl
  · rw [h.actions_eq, Oam.pendingRead_of_even (by rw [hlast]; rfl)]
    rfl

/-- Every move extends the copy by what it does on the buses. -/
theorem Copied.move {t : State} (hm : BulkMove s t) :
    ∃ (bytes' : List Byte) (log : List BusAccess), t.env.busLog = s.env.busLog ++ log ∧
      Copied page dest bytes' (actions ++ copyActions log) t := by
  cases hm with
  | quiet log oam env silent =>
    exact ⟨bytes, log, congrArg Env.busLog env, by rw [silent, List.append_nil]; exact h.quiet oam env⟩
  | read active at_read => exact ⟨bytes, _, rfl, h.read active at_read⟩
  | write active at_write => exact ⟨_, _, rfl, h.write active at_write⟩
  | complete active last => exact ⟨bytes, [], (List.append_nil _).symm, by
      rw [copyActions, List.append_nil]; exact h.complete active last⟩

end Moves

/-- Where a transfer that `s` triggers stands: its record, and the bytes and actions since. -/
def Transferring (page : Byte) (s u : State) : Prop :=
  u.oam.Wf ∧ ∃ (bytes : List Byte) (log : List BusAccess), u.env.busLog = s.env.busLog ++ log ∧
    Copied page s.env.destPtr bytes (copyActions log) u

theorem transferring_perform {page : Byte} {s u : State} {i : Instr} (hi : keepsTransfer i = true)
    (h : Transferring page s u) : Transferring page s (perform i (withdrawResponse u)) := by
  obtain ⟨hwf, bytes, log, hlog, hcopied⟩ := h
  have hwf' : (withdrawResponse u).oam.Wf := hwf
  obtain ⟨bytes', log', hlog', hcopied'⟩ := hcopied.withdraw.move (bulkMove_perform hi hwf')
  refine ⟨perform_wf i hwf', bytes', log ++ log', ?_, by rwa [copyActions_append]⟩
  rw [hlog', withdrawResponse_env, hlog, List.append_assoc]

theorem transferring_performAll (page : Byte) (odd : Bool) (s : State) {ops : List Instr}
    (hops : ops.all keepsTransfer = true) :
    Transferring page s (performAll (.oamTrig page odd :: ops) s) :=
  performAll_induction (Transferring page s)
    (fun i hi _ => transferring_perform (List.all_eq_true.mp hops i hi))
    ⟨Oam.wf_fresh page odd, [], [], (List.append_nil _).symm, copied_startCopy page odd (withdrawResponse s)⟩

/-- Settles O45: `Copied` holds at the trigger and every operation extends it. -/
theorem everyByteCopiedExactlyOnce : Obligations.EveryByteCopiedExactlyOnce := by
  intro page odd s t ops hops ht
  obtain rfl := eq_performAll_of_runOps ht
  obtain ⟨hwf, bytes, log, hlog, hcopied⟩ := transferring_performAll page odd s hops
  refine ⟨bytes, log, hlog, fun ha => ⟨?_, ?_⟩, fun ha => ⟨?_, hwf.cycle_le, ?_⟩⟩
  · rw [hcopied.length_eq, Oam.bytesDone, ha]
    rfl
  · rw [hcopied.actions_eq, Oam.pendingRead, ha]
    exact List.append_nil _
  · rw [hcopied.length_eq, Oam.bytesDone_of_active ha]
  · rw [hcopied.actions_eq, Oam.pendingRead_of_active ha, hcopied.page_eq ha]

/-! Where the bytes land. -/

/-- Of a page whose content is known, the bytes done stand at their places, and a byte read and not yet written
is the one known. -/
structure Landed (main : Memory) (page dest : Byte) (s : State) : Prop where
  main_eq : s.env.main = main
  landed : ∀ i b : Byte, i.toNat < s.oam.bytesDone → Memory.read main (page ++ i).toNat = some b →
    Memory.read s.env.sec (dest + i).toNat = some b
  held : s.oam.active = true → s.oam.currentCycle.toNat % 2 = 1 →
    ∀ b : Byte, Memory.read main (page ++ s.oam.currentOffset).toNat = some b → s.oam.tempValue = b

theorem landed_startCopy (page : Byte) (odd : Bool) (s : State) :
    Landed s.env.main page s.env.destPtr (startCopy page odd s) where
  main_eq := rfl
  landed i b hi := absurd hi (by simp [Oam.bytesDone, startCopy, freshTransfer])
  held _ hodd := absurd hodd (by simp [startCopy, freshTransfer])

/-- A known byte is what the port answers (20_memory.md R42). -/
theorem mainByte_of_read {e : Env} {addr : Addr} {b : Byte} (h : Memory.read e.main addr.toNat = some b) :
    mainByte e addr = b := by
  simp [mainByte, h]

section Moves
variable {main : Memory} {page dest : Byte} {s : State} (h : Landed main page dest s)
include h

theorem Landed.withdraw : Landed main page dest (withdrawResponse s) := ⟨h.main_eq, h.landed, h.held⟩

theorem Landed.quiet {t : State} {log : List BusAccess} (oam : s.oam.SameProgress t.oam)
    (env : t.env = { s.env with busLog := s.env.busLog ++ log }) : Landed main page dest t where
  main_eq := by rw [env, ← h.main_eq]
  landed i b hi hb := by
    rw [env]
    exact h.landed i b (oam.bytesDone_eq ▸ hi) hb
  held ha hodd b hb := by
    rw [oam.active] at ha
    rw [oam.currentCycle] at hodd
    rw [oam.currentOffset] at hb
    rw [oam.tempValue, h.held ha hodd b hb]

/-- A read half-cycle holds the byte known. -/
theorem Landed.read (ha : s.oam.active = true) (hpage : s.oam.sourcePage = page) (hat : s.oam.AtRead) :
    Landed main page dest (readHalf (clocked s)) := by
  have hdone := bytesDone_readHalf ha hat
  refine ⟨h.main_eq, fun i b hi hb => h.landed i b (hdone ▸ hi) hb, fun _ _ b hb => ?_⟩
  rw [← h.main_eq, ← hpage] at hb
  exact mainByte_of_read hb

/-- A write half-cycle puts the byte held at its place, and no other place is that of a byte done. -/
theorem Landed.write (ha : s.oam.active = true) (hat : s.oam.AtWrite)
    (hptr : s.env.destPtr = dest + s.oam.currentOffset) : Landed main page dest (writeHalf (clocked s)) := by
  have hdone := bytesDone_writeHalf ha hat
  obtain ⟨hodd, hle, hoff⟩ := hat
  have hsucc := toNat_cycle_succ _ hle
  have hcycle : (writeHalf (clocked s)).oam.currentCycle = s.oam.currentCycle + 1#16 := rfl
  refine ⟨h.main_eq, fun i b hi hb => ?_, fun _ hodd' => absurd hodd' (by rw [hcycle]; omega)⟩
  rw [hdone, Oam.bytesDone_of_active ha] at hi
  have hsec : (writeHalf (clocked s)).env.sec =
      Memory.write s.env.sec (dest + s.oam.currentOffset).toNat s.oam.tempValue := by rw [← hptr]; rfl
  rw [hsec]
  by_cases heq : i = s.oam.currentOffset
  · rw [heq] at hb ⊢
    rw [Memory.read_write_same, h.held ha hodd b hb]
  · have hne : (dest + i).toNat ≠ (dest + s.oam.currentOffset).toNat := fun hsame =>
      heq ((BitVec.add_right_inj dest).mp (BitVec.eq_of_toNat_eq hsame))
    have hlt : i.toNat < s.oam.bytesDone := by
      have : i.toNat ≠ s.oam.currentOffset.toNat := fun hsame => heq (BitVec.eq_of_toNat_eq hsame)
      rw [Oam.bytesDone_of_active ha]
      omega
    rw [Memory.read_write_other _ _ hne]
    exact h.landed i b hlt hb

theorem Landed.complete (ha : s.oam.active = true) (hlast : s.oam.currentCycle = 512) :
    Landed main page dest (complete (clocked s)) := by
  have hdone : s.oam.bytesDone = 256 := by
    rw [Oam.bytesDone_of_active ha, hlast]
    rfl
  exact ⟨h.main_eq, fun i b _ hb => h.landed i b (by rw [hdone]; exact i.isLt) hb,
    fun hf => absurd hf Bool.false_ne_true⟩

theorem Landed.move {bytes : List Byte} {actions : List CopyAction} (hc : Copied page dest bytes actions s)
    {t : State} (hm : BulkMove s t) : Landed main page dest t := by
  cases hm with
  | quiet _ oam env _ => exact h.quiet oam env
  | read active at_read => exact h.read active (hc.page_eq active) at_read
  | write active at_write =>
    refine h.write active at_write ?_
    rw [at_write.offset_eq, hc.destPtr_eq, hc.length_eq, Oam.bytesDone_of_active active]
  | complete active last => exact h.complete active last

end Moves

theorem landed_performAll (page : Byte) (odd : Bool) (s : State) {ops : List Instr}
    (hops : ops.all keepsTransfer = true) :
    Landed s.env.main page s.env.destPtr (performAll (.oamTrig page odd :: ops) s) := by
  refine (performAll_induction
    (fun u => Transferring page s u ∧ Landed s.env.main page s.env.destPtr u)
    (fun i hi u hu => ?_) ⟨?_, landed_startCopy page odd (withdrawResponse s)⟩).2
  · obtain ⟨htrans, hlanded⟩ := hu
    have hkeeps := List.all_eq_true.mp hops i hi
    have hnext := transferring_perform hkeeps htrans
    obtain ⟨hwf, bytes, log, -, hcopied⟩ := htrans
    exact ⟨hnext, hlanded.withdraw.move hcopied.withdraw (bulkMove_perform hkeeps hwf)⟩
  · exact @transferring_performAll page odd s [] rfl

/-- Settles O46: when the transfer is over, all 256 bytes are done. -/
theorem completedTransferCopiesPage : Obligations.CompletedTransferCopiesPage := by
  intro page odd s t ops hops ht ha
  obtain rfl := eq_performAll_of_runOps ht
  obtain ⟨-, bytes, log, -, hcopied⟩ := transferring_performAll page odd s hops
  have hlanded := landed_performAll page odd s hops
  have hdone : (performAll (.oamTrig page odd :: ops) s).oam.bytesDone = 256 := by rw [Oam.bytesDone, ha]; rfl
  refine ⟨?_, fun i b hb => hlanded.landed i b (by rw [hdone]; exact i.isLt) hb⟩
  rw [hcopied.destPtr_eq, hcopied.length_eq, hdone]
  exact BitVec.add_zero _

end Sys2Proof.Machine
end
